-- ==== Sys2Proof/Word.lean ====
section
/-! DEFINITION. The word types of the LA4: what the manual reads as bits, and nothing else. -/

namespace Sys2Proof

/-- One byte of a record or of a burst. -/
abbrev Byte := BitVec 8

/-- A 16-bit line link word, and the 16-bit free-running counts and frame numbers (R1, R2, R58). -/
abbrev Half := BitVec 16

/-- A 32-bit register, tag or Time Base value (R203, R6, R202). -/
abbrev Word := BitVec 32

/-- A 64-bit host address. -/
abbrev Addr := BitVec 64

/-- A pixel: a 16-bit unsigned value (R4). -/
abbrev Pixel := BitVec 16

end Sys2Proof
end

