-- ==== Sys2Proof/Syntax.lean ====
section
/-! DEFINITION. The commands of the LA4: one constructor per row of the table of operations and events,
with the operands the event carries. -/

namespace Sys2Proof

/-- One of the four streams; stream `s` has lane `s` and Pixel Path `s`. -/
abbrev StreamId := Fin 4

/-- One of a stream's two capture contexts (R17). -/
abbrev ContextId := Fin 2

/-- A group entry: `g` stands for group id `g + 1` (R113). -/
abbrev GroupId := Fin 8

/-- The byte strobes of a register write; a write with a strobe clear is ignored (R203). -/
abbrev Strobes := BitVec 4

/-- The exposure tag of a LINE packet (R207). -/
inductive Exposure
  | single | long | short
  deriving DecidableEq, Repr

/-- An AXI response code that is an error: the LA4 takes EXOKAY as one, since it never asks for it (R183, R184). -/
inductive ErrorCode
  | slverr | decerr | exokay
  deriving DecidableEq, Repr

/-- The AXI response code of a beat (R183). -/
inductive BeatCode
  | okay
  | error (code : ErrorCode)
  deriving DecidableEq, Repr

/-- One beat of a read's data: its bytes, its code, and whether it is the read's last one (R183). -/
structure Beat where
  data : List Byte
  code : BeatCode
  last : Bool
  deriving DecidableEq, Repr

/-- How a write is answered (R184). -/
inductive WriteAnswer
  | okay
  | error (code : ErrorCode)
  deriving DecidableEq, Repr

/-- Reads and writes are matched by AXI ID within their own direction (R178). -/
inductive Direction
  | read | write
  deriving DecidableEq, Repr

/-- The profile fields of a CONFIGURE_STREAM, as its record carries them (R210). -/
structure ProfileFields where
  profileId : Byte
  layout : Byte
  maxLag : Byte
  quota : Byte
  lineLength : Half
  frameHeight : Half
  mergeRatio : Byte
  settleFrames : Byte
  referenceRows : Byte
  gapTimeout : Byte
  knee : Half
  fixedBlack : Half
  deriving DecidableEq, Repr

/-- The commands. A response names its tracker entry by its AXI ID, a `Nat` that may name no entry. A command that
answers a read carries one beat of it, and its row's effect comes with the last one (R183). An admin command carries
its tag and the fields of its record. -/
inductive Instr
  | enable (strobes : Strobes) (value : Bool)
  | softReset (strobes : Strobes) (enableBit : Bool)
  | softResetEnds
  | pinReset
  | producer (strobes : Strobes) (data : Word)
  | consumed (strobes : Strobes) (data : Word)
  | irqStatus (strobes : Strobes) (data : Word)
  | irqEnable (strobes : Strobes) (data : Word)
  | registerWrite (offset : Word) (strobes : Strobes) (data : Word)
  | setupReadResponse (id : Nat) (beat : Beat)
  | fetchGrant
  | slotReadLands (id : Nat) (beat : Beat)
  | adminSlotLands (id : Nat) (beat : Beat)
  | slotReadFails (id : Nat) (beat : Beat)
  | createRing (tag : Word) (stream : StreamId) (base : Addr) (log2Slots : Byte)
  | deleteRing (tag : Word) (stream : StreamId)
  | resumeStream (tag : Word) (stream : StreamId) (skip : Bool)
  | configureStream (tag : Word) (stream : StreamId) (laneEnable : Bool) (fields : ProfileFields)
  | loadDefects (tag : Word) (stream : StreamId) (list : Addr) (count : Half)
  | defectBurstIssue
  | defectBurstLands (id : Nat) (beat : Beat)
  | defectBurstFails (id : Nat) (beat : Beat)
  | abortStream (tag : Word) (stream : StreamId)
  | abortStreamCompletes
  | openGroup (tag : Word) (group : GroupId) (mask : Byte) (timeout : Half)
  | closeGroup (tag : Word) (group : GroupId)
  | readStats (tag : Word) (stream : StreamId) (block : Addr) (clear : Bool)
  | statisticsBlockIssue
  | statisticsBlockResponse (id : Nat) (answer : WriteAnswer)
  | adminCommandStart
  | idleWord (stream : StreamId)
  | trainWord (stream : StreamId)
  | dataWord (stream : StreamId) (value : Half)
  | illegalWord (stream : StreamId) (code : Option Half)
  | frameStart (stream : StreamId) (number : Half) (profileId : BitVec 4)
  | line (stream : StreamId) (index : BitVec 14) (exposure : Exposure) (pixels : List Pixel) (damaged : Bool)
  | frameEnd (stream : StreamId) (number : Half) (lineCount : Half)
  | dataBurstIssue
  | flushStep (stream : StreamId)
  | dataBurstResponse (id : Nat)
  | dataBurstError (id : Nat) (code : ErrorCode)
  | captureFinishes (stream : StreamId) (context : ContextId)
  | groupResolves (group : GroupId)
  | post
  | completionWriteAck (id : Nat)
  | completionWriteError (id : Nat) (code : ErrorCode)
  | lateResponse (direction : Direction) (id : Nat)
  | strayResponse (direction : Direction) (id : Nat)
  | resettingResponse (direction : Direction) (id : Nat)
  | responseTimeout (direction : Direction) (id : Nat)
  | deadlineTimerRunsOut (stream : StreamId)
  | lineGapTimeout (stream : StreamId)
  | groupTimeout (group : GroupId)
  | coalescingTimerRunsOut
  | stopCompletes
  | timeBaseTick
  deriving DecidableEq, Repr

end Sys2Proof
end

