-- ==== Sys2Proof/Decode.lean ====
section
/-! DEFINITION. The command a word of the table's bits spells. The table of this block gives no row any
bits, so no word spells a command. -/

namespace Sys2Proof

/-- No row of the table of operations and events carries bits: no word spells a command. -/
def decodeTableWord (_nbits _w : Nat) : Option Instr := none

end Sys2Proof
end

