-- ==== Sys2Proof/Config.lean ====
section
/-! DEFINITION. What one LA4 part fixes: the sizes of its lists and buffers and its identification. -/

namespace Sys2Proof.Config

/-- Entries of the Completion Holding List: 2 for the admin ring and 6 for each stream ring (R143). -/
abbrev holdingEntries : Nat := 26

/-- Read tracker entries (R178). -/
abbrev readEntries : Nat := 8

/-- Write tracker entries (R178). -/
abbrev writeEntries : Nat := 64

/-- Requests a prefetch list holds (R14). -/
def prefetchDepth : Nat := 4

/-- Lines a Line Output Buffer holds (R89). -/
def lineBufferDepth : Nat := 8

/-- Line slots of the Pairing Store (R94). -/
def pairingSlots : Nat := 128

/-- Defect bursts outstanding at once (R165). -/
def loadReads : Nat := 4

/-- The quarantine count at which the device faults (R189). -/
def quarantineLimit : Nat := 9

/-- TRAIN words of a training run (R60). -/
def trainingRun : Nat := 64

/-- Consecutive header errors that lose a lane (R66). -/
def headerErrorLimit : Nat := 4

/-- Timeout of the setup read in milliseconds, before any response timeout is set (R132). -/
def setupTimeout : Nat := 255

/-- The identification of the first revision of the part (R216). DESIGN CHOICE (log entry 12), unsafe for a later
revision. -/
def identification : Word := 0x4EB20401#32

end Sys2Proof.Config
end

