-- ==== Sys2Proof/Machine/State.lean ====
section
/-! DEFINITION. Everything the manual gives the LA4 to hold, as plain data, and its reset value. -/

namespace Sys2Proof.Machine

/-- Who stops a run: nobody. The manual gives every command an effect in every state, so no meaning
ends in a fault, and there is no constructor (safe: no run is cut short). -/
inductive Fault
  deriving DecidableEq, Repr

/-- Why a command has no meaning. -/
inductive Refusal
  /-- Raised by `exec` for a row that has no meaning yet; no row is refused in this model (safe). -/
  | notModelled (mnemonic : String)
  deriving DecidableEq, Repr

/-! ## Register Window -/

/-- The six device states (R193), in the order of their codes (R216). -/
inductive DeviceState
  | off | starting | running | stopping | resetting | faulted
  deriving DecidableEq, Repr

/-- The fault causes (R200), in the order of their codes (R216). -/
inductive FaultCause
  | none | setupInvalid | setupRead | completionWrite | adminFetch | quarantine
  deriving DecidableEq, Repr

/-! ## Rings and the Completion Holding List -/

/-- A request ring, by its selector code: 0 the admin ring, `s + 1` the ring of stream `s` (R217). -/
abbrev RingId := Fin 5

/-- A holding entry: 0 and 1 are the admin ring's, `2 + 6 s` to `7 + 6 s` those of stream `s` (R143). -/
abbrev EntryId := Fin Config.holdingEntries

/-- The states of a request ring (R134). -/
inductive RingState
  | absent | active | halted
  deriving DecidableEq, Repr

/-- A request ring; an ABSENT ring has zeros in its other fields (R134). -/
structure Ring where
  state : RingState
  base : Addr
  slots : Nat
  producer : Half
  fetched : Half
  inFlight : Bool
  deriving DecidableEq, Repr

/-- The completion ring (R133, R146). -/
structure CompletionRing where
  present : Bool
  base : Addr
  slots : Nat
  post : Half
  consumed : Half
  nextLap : Bool
  deriving DecidableEq, Repr

/-- The values of an accepted setup record (R132, R133). -/
structure Setup where
  adminBase : Addr
  adminSlots : Nat
  completionBase : Addr
  completionSlots : Nat
  threshold : Nat
  coalescingTime : Nat
  responseTimeout : Nat
  deriving DecidableEq, Repr

/-- The completion statuses, in the order of their codes (R211). -/
inductive Status
  | ok | short | damaged | truncated | linkLost | aborted | writeFault | expired
  | missed | invalid | groupBroken | fetchFault | busy | noResource | tableError | readFault
  deriving DecidableEq, Repr

/-- The group status of a record, in the order of its codes (R211). -/
inductive GroupStatus
  | none | groupOk | groupBroken
  deriving DecidableEq, Repr

/-- The six row counters of a capture (R21). -/
structure RowCounters where
  written : Half
  short : Half
  damaged : Half
  unpaired : Half
  late : Half
  overrun : Half
  deriving DecidableEq, Repr

/-- The outcome a holding entry receives at finishing (R143). -/
structure Report where
  status : Status
  tag : Word
  framePresent : Bool
  unsettled : Bool
  frame : Half
  startTime : Word
  counters : RowCounters
  detail : Word
  deriving DecidableEq, Repr

/-- The states of a holding entry (R143). -/
inductive EntryState
  | free | reserved | parked | ready | posting
  deriving DecidableEq, Repr

/-- A holding entry (R143). `order` is its place among the entries of its ring, later ones higher. -/
structure HoldingEntry where
  state : EntryState
  order : Nat
  slotIndex : Nat
  report : Report
  groupStatus : GroupStatus
  counted : Bool
  completionSlot : Nat
  deriving DecidableEq, Repr

/-! ## Requests and captures -/

/-- The kind of a stream request (R5). -/
inductive RequestKind
  | capture | mark
  deriving DecidableEq, Repr

/-- How rows are built from exposures (R7). -/
inductive Assembly
  | plain | merge | split
  deriving DecidableEq, Repr

/-- The output pixel formats (R7). -/
inductive PixelFormat
  | u16 | u8 | p12
  deriving DecidableEq, Repr

/-- Which frame a CAPTURE may take (R8). -/
inductive Selector
  | next | numbered
  deriving DecidableEq, Repr

/-- A fetched request that passed validation (R12), with the holding entry it owns. -/
structure Request where
  entry : EntryId
  kind : RequestKind
  tag : Word
  assembly : Assembly
  format : PixelFormat
  selector : Selector
  number : Half
  group : Option GroupId
  deadline : Nat
  repair : Bool
  subtract : Bool
  acceptUnsettled : Bool
  notify : Bool
  top : Nat
  rows : Nat
  left : Nat
  cols : Nat
  pitch : Nat
  buffer : Addr
  length : Nat
  plane2 : Addr
  deriving DecidableEq, Repr

/-- The layout of a profile: one exposure a line, or a long and a short one. -/
inductive Layout
  | single | paired
  deriving DecidableEq, Repr

/-- A profile (section 2.2); the lane enable is no part of it. -/
structure Profile where
  id : BitVec 4
  lineLength : Nat
  frameHeight : Nat
  layout : Layout
  maxLag : Nat
  quota : Nat
  mergeRatio : Nat
  knee : Nat
  settleFrames : Nat
  referenceRows : Nat
  fixedBlack : Pixel
  gapTimeout : Nat
  deriving DecidableEq, Repr

/-- How a defective pixel is replaced (R81). -/
inductive DefectMethod
  | average | left | right
  deriving DecidableEq, Repr

/-- An entry of a defect table (section 4.2). -/
structure DefectEntry where
  row : Nat
  column : Nat
  method : DefectMethod
  deriving DecidableEq, Repr

/-- The black measurement of one exposure of a capture: `none` is an unfixed value (R82, R83). -/
structure Black where
  sum : Nat
  count : Nat
  value : Option Pixel
  deriving DecidableEq, Repr

/-- The black measurement of the three exposures. -/
structure Blacks where
  single : Black
  long : Black
  short : Black
  deriving DecidableEq, Repr

/-- The two states of a capture that holds a context (R17, R18). -/
inductive CapturePhase
  | capturing | flushing
  deriving DecidableEq, Repr

/-- The causes a capture has recorded towards its outcome (R18, R19). -/
structure Causes where
  writeFault : Bool
  aborted : Bool
  linkLost : Bool
  truncated : Bool
  deriving DecidableEq, Repr

/-- A capture context that is held (R17). The five row lists, each rising, are the window rows written,
counted short, counted damaged, and with a long or a short exposure produced (R21, R111). -/
structure Capture where
  phase : CapturePhase
  request : Request
  frame : Half
  startTime : Word
  unsettled : Bool
  profile : Profile
  defects : List DefectEntry
  counters : RowCounters
  causes : Causes
  outstanding : Nat
  blacks : Blacks
  shortHigh : Option Nat
  watermark : Option Nat
  flushPending : Bool
  rowsWritten : List Nat
  rowsShort : List Nat
  rowsDamaged : List Nat
  rowsLong : List Nat
  rowsShortExposure : List Nat
  deriving DecidableEq, Repr

/-! ## Streams -/

/-- The lane states (section 3.2). -/
inductive LaneState
  | off | search | aligned | run
  deriving DecidableEq, Repr

/-- A LINE packet in progress: its header, the pixels it keeps, what is still to come and the running
check (R65, R67). -/
structure Payload where
  index : BitVec 14
  exposure : Exposure
  keep : Nat
  remaining : Nat
  kept : List Pixel
  check : Half
  deriving DecidableEq, Repr

/-- The receive phase; `none` outside RUN (R62). -/
inductive ReceivePhase
  | none
  | gap
  | header (words : List Half)
  | payload (packet : Payload)
  | discard
  deriving DecidableEq, Repr

/-- A Lane Receiver (chapter 3). -/
structure Lane where
  state : LaneState
  runCount : Nat
  headerErrors : Nat
  phase : ReceivePhase
  deriving DecidableEq, Repr

/-- The frame in progress: `bound` is the context of its CAPTURING capture, and the last three fields the
last accepted line index of each exposure. -/
structure Frame where
  number : Half
  startTime : Word
  unsettled : Bool
  bound : Option ContextId
  lastSingle : Option Nat
  lastLong : Option Nat
  lastShort : Option Nat
  deriving DecidableEq, Repr

/-- The thirteen statistics counters of a stream (R55), in the order of the statistics block (R214). -/
structure Stats where
  framesSeen : Word
  framesBound : Word
  framesUnclaimed : Word
  framesForeign : Word
  framesTruncated : Word
  linesDamaged : Word
  packetsStray : Word
  linesOverrun : Word
  linesUnpaired : Word
  linesLate : Word
  evictions : Word
  laneLosses : Word
  headerErrors : Word
  deriving DecidableEq, Repr

/-- The plane a row belongs to (R86). -/
inductive Plane
  | one | two
  deriving DecidableEq, Repr

/-- A finished line in a Line Output Buffer (R89), with the unpaired marking of R104. -/
structure OutputLine where
  context : ContextId
  plane : Plane
  row : Nat
  address : Addr
  bytes : List Byte
  short : Bool
  damaged : Bool
  unpaired : Bool
  issued : Nat
  deriving DecidableEq, Repr

/-- A stream: its Lane Receiver, Stream Controller and Pixel Path. The head of `prefetch` is the WAITING
request and those behind it are QUEUED; `gapTimer` and `deadline` hold the Time Base value a running
timer started at. -/
structure StreamState where
  lane : Lane
  laneEnable : Bool
  active : Option Profile
  staged : Option Profile
  settle : Nat
  relink : Bool
  frame : Option Frame
  gapTimer : Option Word
  prefetch : List Request
  deadline : Option Word
  contexts : Vector (Option Capture) 2
  stats : Stats
  lastLineCount : Half
  activeDefects : List DefectEntry
  stagedDefects : Option (List DefectEntry)
  buffer : List OutputLine
  deriving DecidableEq, Repr

/-- The stream states, in the order of their codes (R26, R214); computed, not held. -/
inductive StreamStatus
  | disabled | unlinked | betweenFrames | inFrame
  deriving DecidableEq, Repr

/-- A held slot of the Pairing Store (R94). -/
structure HeldLine where
  stream : StreamId
  context : ContextId
  index : Nat
  pixels : List Pixel
  damaged : Bool
  short : Bool
  deriving DecidableEq, Repr

/-! ## Group Table -/

/-- The states of a group entry (R113). -/
inductive GroupState
  | free | opened | fixed | broken
  deriving DecidableEq, Repr

/-- The progress of a member slot (R113). -/
inductive SlotProgress
  | empty | registered | bound | finished
  deriving DecidableEq, Repr

/-- A member slot (R113). -/
structure MemberSlot where
  progress : SlotProgress
  request : Option Request
  outcome : Option Status
  deriving DecidableEq, Repr

/-- A group entry (R113). -/
structure Group where
  state : GroupState
  mask : Vector Bool 4
  slots : Vector MemberSlot 4
  number : Option Half
  timeout : Nat
  timer : Option Word
  deriving DecidableEq, Repr

/-! ## Admin Unit -/

/-- A well-formed admin command (R156, R210). -/
inductive AdminOp
  | createRing (stream : StreamId) (base : Addr) (log2Slots : Nat)
  | deleteRing (stream : StreamId)
  | resumeStream (stream : StreamId) (skip : Bool)
  | configureStream (stream : StreamId) (laneEnable : Bool) (fields : ProfileFields)
  | loadDefects (stream : StreamId) (list : Addr) (count : Nat)
  | abortStream (stream : StreamId)
  | openGroup (group : GroupId) (mask : Byte) (timeout : Nat)
  | closeGroup (group : GroupId)
  | readStats (stream : StreamId) (block : Addr) (clear : Bool)
  deriving DecidableEq, Repr

/-- A command held by the Admin Unit; `op` is `none` for a record R156 refuses. -/
structure AdminCommand where
  entry : EntryId
  tag : Word
  op : Option AdminOp
  deriving DecidableEq, Repr

/-- A LOAD_DEFECTS in execution (R164 to R167): `buffer` holds the bursts landed, by burst number. -/
structure Load where
  stream : StreamId
  list : Addr
  count : Nat
  bursts : Nat
  issued : Nat
  landed : Nat
  outstanding : Nat
  failed : Bool
  buffer : List (Nat × List Byte)
  deriving DecidableEq, Repr

/-- An ABORT_STREAM in execution: its stream and the requests finished ABORTED so far (R168, R169). -/
structure Abort where
  stream : StreamId
  count : Nat
  deriving DecidableEq, Repr

/-- A READ_STATS in execution: its snapshot, and whether its block write has been issued (R173). -/
structure Snapshot where
  stream : StreamId
  block : Addr
  clear : Bool
  stats : Stats
  lastLineCount : Half
  status : StreamStatus
  issued : Bool
  deriving DecidableEq, Repr

/-- The Admin Unit (chapter 8). -/
structure AdminUnit where
  executing : Option AdminCommand
  waiting : Option AdminCommand
  load : Option Load
  abort : Option Abort
  snapshot : Option Snapshot
  deriving DecidableEq, Repr

/-! ## Memory Port -/

/-- The six kinds of transaction (R177). -/
inductive TransactionKind
  | setupRead | slotFetch | defectBurst | dataBurst | completionWrite | statisticsBlock
  deriving DecidableEq, Repr

/-- The owner of a transaction (R177). -/
inductive Owner
  | deviceStart
  | slot (entry : EntryId)
  | load (burst : Nat)
  | capture (stream : StreamId) (context : ContextId)
  | completion (entry : EntryId)
  | statistics
  deriving DecidableEq, Repr

/-- What a tracker entry that is not FREE records (R178, R179); `owner` is `none` once it is lost, and `beats` are the
beats of a read that have arrived, its last one still to come (R183). -/
structure Transaction where
  kind : TransactionKind
  owner : Option Owner
  address : Addr
  count : Nat
  issueTime : Word
  timeout : Nat
  beats : List Beat
  deriving DecidableEq, Repr

/-- A tracker entry (R178). -/
inductive TrackerEntry
  | free
  | issued (t : Transaction)
  | quarantined (t : Transaction)
  deriving DecidableEq, Repr

/-- A requester of the write-issue rotation: 0 the completion writer, 1 the Admin Unit, `s + 2` stream
`s` (R182). -/
abbrev RequesterId := Fin 6

/-- What the Memory Port hands to the AXI port at an issue (R179): the ID, the address, the byte count
and, for a write, its data. -/
structure Handed where
  direction : Direction
  id : Nat
  address : Addr
  count : Nat
  data : List Byte
  deriving DecidableEq, Repr

/-! ## The machine -/

/-- The LA4. `pending` is the model's own queue of commands (DESIGN CHOICE, log entry 1, safe), and `handed` its own
record of the pins: the transaction last handed to the AXI port (DESIGN CHOICE, log entry 11, safe). `enableDropped`
holds that ENABLE was written 0 since STARTING began (R193, R195), as a bit of its own (DESIGN CHOICE, log entry 8,
safe). -/
structure State where
  device : DeviceState
  cause : FaultCause
  enable : Bool
  softReset : Bool
  enableDropped : Bool
  setupAddress : Addr
  irqStatus : BitVec 5
  irqEnable : BitVec 5
  irqLine : Bool
  timeBase : Word
  setup : Option Setup
  rings : Vector Ring 5
  completion : CompletionRing
  holding : Vector HoldingEntry Config.holdingEntries
  postQueue : List EntryId
  fetchRotation : RingId
  coalescingCount : Nat
  coalescingTimer : Option Word
  admin : AdminUnit
  streams : Vector StreamState 4
  pairing : List HeldLine
  groups : Vector Group 8
  reads : Vector TrackerEntry Config.readEntries
  writes : Vector TrackerEntry Config.writeEntries
  quarantine : Nat
  writeRotation : RequesterId
  handed : Option Handed
  pending : List Instr
  deriving DecidableEq, Repr

/-! ## Reset values -/

/-- A ring that is ABSENT (R154): it has no base and no slots (R134). DESIGN CHOICE (log entry 21), unsafe: they read
as zeros. -/
def Ring.absent : Ring := ⟨.absent, 0, 0, 0, 0, false⟩

/-- The completion ring that is absent (R154). DESIGN CHOICE (log entry 21), unsafe: its base and slots are zeros. -/
def CompletionRing.absent : CompletionRing := ⟨false, 0, 0, 0, 0, true⟩

/-- Row counters at 0 (R17). -/
def RowCounters.zero : RowCounters := ⟨0, 0, 0, 0, 0, 0⟩

/-- The report of a request that took no frame, or of an admin command (R24, R157). -/
def Report.unbound (status : Status) (tag : Word) (detail : Word) : Report :=
  ⟨status, tag, false, false, 0, 0, .zero, detail⟩

/-- A FREE holding entry (R154). DESIGN CHOICE (log entry 21), unsafe: its other fields are zeros. -/
def HoldingEntry.free : HoldingEntry := ⟨.free, 0, 0, .unbound .ok 0 0, .none, false, 0⟩

/-- Statistics counters at 0 (R57). -/
def Stats.zero : Stats := ⟨0, 0, 0, 0, 0, 0, 0, 0, 0, 0, 0, 0, 0⟩

/-- A lane in OFF (R59, R74). -/
def Lane.off : Lane := ⟨.off, 0, 0, .none⟩

/-- A stream at its reset values (R57, R74, R93). -/
def StreamState.reset : StreamState where
  lane := .off
  laneEnable := false
  active := none
  staged := none
  settle := 0
  relink := false
  frame := none
  gapTimer := none
  prefetch := []
  deadline := none
  contexts := Vector.replicate 2 none
  stats := .zero
  lastLineCount := 0
  activeDefects := []
  stagedDefects := none
  buffer := []

/-- A member slot that is not filled (R113). -/
def MemberSlot.empty : MemberSlot := ⟨.empty, none, none⟩

/-- A FREE group entry (R131). -/
def Group.free : Group := ⟨.free, Vector.replicate 4 false, Vector.replicate 4 .empty, none, 0, none⟩

/-- The Admin Unit with nothing to do (R175). -/
def AdminUnit.idle : AdminUnit := ⟨none, none, none, none, none⟩

/-- The LA4 after a pin reset: R57, R74, R93, R112, R131, R154, R175, R192 and R206 give every value. -/
def State.reset : State where
  device := .off
  cause := .none
  enable := false
  softReset := false
  enableDropped := false
  setupAddress := 0
  irqStatus := 0
  irqEnable := 0
  irqLine := false
  timeBase := 0
  setup := none
  rings := Vector.replicate 5 .absent
  completion := .absent
  holding := Vector.replicate Config.holdingEntries .free
  postQueue := []
  fetchRotation := 0
  coalescingCount := 0
  coalescingTimer := none
  admin := .idle
  streams := Vector.replicate 4 .reset
  pairing := []
  groups := Vector.replicate 8 .free
  reads := Vector.replicate Config.readEntries .free
  writes := Vector.replicate Config.writeEntries .free
  quarantine := 0
  writeRotation := 0
  handed := none
  pending := []

end Sys2Proof.Machine
end

