-- ==== Sys2Proof/Machine/Flags.lean ====
section
/-! DEFINITION. The status bits and the interrupt line, counters that saturate, and the status a
finished capture reports. -/

namespace Sys2Proof.Machine

/-! ## IRQ_STATUS and the interrupt line -/

/-- IRQ_STATUS.POSTED (R204, R216). -/
def irqPosted : BitVec 5 := 0b00001#5
/-- IRQ_STATUS.WRITE_IGNORED. -/
def irqWriteIgnored : BitVec 5 := 0b00010#5
/-- IRQ_STATUS.LANE. -/
def irqLane : BitVec 5 := 0b00100#5
/-- IRQ_STATUS.FAULT. -/
def irqFault : BitVec 5 := 0b01000#5
/-- IRQ_STATUS.STOPPED. -/
def irqStopped : BitVec 5 := 0b10000#5

/-- The level of the interrupt line: some bit set in both registers (R205). -/
def lineLevel (status enable : BitVec 5) : Bool := status &&& enable != 0

/-- The one way the two interrupt registers change: the line follows in the same event (R205).
DESIGN CHOICE (log entry 18), safe: the line is a field, as a pin is. -/
def State.withIrq (s : State) (status enable : BitVec 5) : State :=
  { s with irqStatus := status, irqEnable := enable, irqLine := lineLevel status enable }

/-- An event sets a status bit; a bit already set stays set (R204). -/
def State.raiseIrq (s : State) (bit : BitVec 5) : State := s.withIrq (s.irqStatus ||| bit) s.irqEnable

/-- A host write clears the bits written 1 (R204). -/
def State.clearIrq (s : State) (bits : BitVec 5) : State := s.withIrq (s.irqStatus &&& ~~~bits) s.irqEnable

/-! ## Saturating counters -/

/-- Raise a counter by 1; one that is full stays there (R21, R55). -/
def satInc {w : Nat} (v : BitVec w) : BitVec w := if v = BitVec.allOnes w then v else v + 1

/-- Raise a counter by 1, `n` times. -/
def satIncBy {w : Nat} : Nat → BitVec w → BitVec w
  | 0, v => v
  | n + 1, v => satIncBy n (satInc v)

/-- Lower every counter by its value in the snapshot (R56). -/
def Stats.lower (now snap : Stats) : Stats where
  framesSeen := now.framesSeen - snap.framesSeen
  framesBound := now.framesBound - snap.framesBound
  framesUnclaimed := now.framesUnclaimed - snap.framesUnclaimed
  framesForeign := now.framesForeign - snap.framesForeign
  framesTruncated := now.framesTruncated - snap.framesTruncated
  linesDamaged := now.linesDamaged - snap.linesDamaged
  packetsStray := now.packetsStray - snap.packetsStray
  linesOverrun := now.linesOverrun - snap.linesOverrun
  linesUnpaired := now.linesUnpaired - snap.linesUnpaired
  linesLate := now.linesLate - snap.linesLate
  evictions := now.evictions - snap.evictions
  laneLosses := now.laneLosses - snap.laneLosses
  headerErrors := now.headerErrors - snap.headerErrors

/-! ## The status of a capture -/

/-- The status of a capture that bound a frame: the first of the list that applies (R22). -/
def Capture.status (c : Capture) : Status :=
  if c.causes.writeFault then .writeFault
  else if c.causes.aborted then .aborted
  else if c.causes.linkLost then .linkLost
  else if c.causes.truncated then .truncated
  else if c.counters.written.toNat < c.request.rows || c.counters.short != 0 || c.counters.overrun != 0 then
    .short
  else if c.counters.damaged != 0 then .damaged
  else .ok

/-- Whether a member's status leaves its group unbroken (R121). -/
def Status.keepsGroup : Status → Bool
  | .ok | .damaged => true
  | .short | .truncated | .linkLost | .aborted | .writeFault | .expired | .missed | .invalid
  | .groupBroken | .fetchFault | .busy | .noResource | .tableError | .readFault => false

/-! ## Timers -/

/-- A timer started at `start` has run out once its length has passed on the Time Base (R3, R202). DESIGN CHOICE
(log entry 4), safe: it acts only by its own command. -/
def ranOut (now start : Word) (length : Nat) : Bool := length ≤ (now - start).toNat

end Sys2Proof.Machine
end

