-- ==== Sys2Proof/WellFormed.lean ====
section
/-! DEFINITION. Which commands can arise at all: the sizes a beat and a line have, and the control codes that are
ILLEGAL. -/

namespace Sys2Proof

/-- The control code of IDLE (R207). -/
def idleCode : Half := 0x3C3C#16

/-- The control code of TRAIN (R207). -/
def trainCode : Half := 0x0F0F#16

/-- A beat carries at least one byte, and no more than its whole read (R177, R183). -/
def Beat.fits (b : Beat) (size : Nat) : Bool := 1 ≤ b.data.length && b.data.length ≤ size

/-- The checks on a command's operands: a read of a slot or of the setup record is 64 bytes, a defect burst 256 bytes
(R177), a line has 1..4096 received pixels (R64), and an ILLEGAL word carries neither of the two codes (R58). -/
def Instr.wellFormed : Instr → Bool
  | .setupReadResponse _ b => b.fits 64
  | .slotReadLands _ b => b.fits 64
  | .adminSlotLands _ b => b.fits 64
  | .slotReadFails _ b => b.fits 64
  | .defectBurstLands _ b => b.fits 256
  | .defectBurstFails _ b => b.fits 256
  | .illegalWord _ (some c) => c != idleCode && c != trainCode
  | .line _ _ _ px _ => 1 ≤ px.length && px.length ≤ 4096
  | .enable .. | .softReset .. | .softResetEnds | .pinReset | .producer .. | .consumed ..
  | .irqStatus .. | .irqEnable .. | .registerWrite ..
  | .fetchGrant | .createRing .. | .deleteRing .. | .resumeStream ..
  | .configureStream .. | .loadDefects .. | .defectBurstIssue
  | .abortStream .. | .abortStreamCompletes | .openGroup .. | .closeGroup .. | .readStats ..
  | .statisticsBlockIssue | .statisticsBlockResponse .. | .adminCommandStart | .idleWord _
  | .trainWord _ | .dataWord .. | .illegalWord _ none | .frameStart .. | .frameEnd ..
  | .dataBurstIssue | .flushStep _ | .dataBurstResponse _ | .dataBurstError ..
  | .captureFinishes .. | .groupResolves _ | .post | .completionWriteAck _
  | .completionWriteError .. | .lateResponse .. | .strayResponse .. | .resettingResponse ..
  | .responseTimeout .. | .deadlineTimerRunsOut _ | .lineGapTimeout _ | .groupTimeout _
  | .coalescingTimerRunsOut | .stopCompletes | .timeBaseTick => true

end Sys2Proof
end

