-- ==== Sys2Proof/Machine/Operands.lean ====
section
/-! DEFINITION. How the records, packets and registers are laid out: reading the fields of what comes
in, judging them, and building the bytes of what goes out. -/

namespace Sys2Proof.Machine

/-! ## Bytes -/

/-- Byte `i` of a record. DESIGN CHOICE (log entry 20), unsafe: past the end of an answer that is shorter than its read a
byte is 0. -/
def byteAt (r : List Byte) (i : Nat) : Nat := (r.getD i 0).toNat

/-- The little-endian field of `n` bytes at offset `o`. -/
def leField (r : List Byte) (o : Nat) : Nat → Nat
  | 0 => 0
  | n + 1 => byteAt r o + 256 * leField r (o + 1) n

/-- The `n` bytes of a value, least significant first. -/
def leBytes : Nat → Nat → List Byte
  | 0, _ => []
  | n + 1, v => BitVec.ofNat 8 v :: leBytes n (v / 256)

/-- Every listed byte of a record is zero. -/
def zeroAt (r : List Byte) (offsets : List Nat) : Bool := offsets.all fun i => byteAt r i == 0

/-- The offsets `a` to `b - 1`. -/
def span (a b : Nat) : List Nat := (List.range (b - a)).map (a + ·)

/-! ## Frame numbers -/

/-- `F` equals `n`, is ahead of it or behind it (R2). -/
inductive FrameOrder
  | equal | ahead | behind
  deriving DecidableEq, Repr

/-- The reading of `(F - n) mod 65536` (R2). -/
def frameOrder (f n : Half) : FrameOrder :=
  if (f - n).toNat = 0 then .equal else if (f - n).toNat ≤ 32767 then .ahead else .behind

/-! ## The request record (R209, R12) -/

/-- Row bytes of a format and a width (R7). -/
def rowBytes : PixelFormat → Nat → Nat
  | .u16, cols => cols * 2
  | .u8, cols => cols
  | .p12, cols => cols * 3 / 2

/-- The assembly a code names. -/
def assemblyOf : Nat → Option Assembly
  | 0 => some .plain
  | 1 => some .merge
  | 2 => some .split
  | _ => none

/-- The format a code names. -/
def formatOf : Nat → Option PixelFormat
  | 0 => some .u16
  | 1 => some .u8
  | 2 => some .p12
  | _ => none

/-- The selector a code names. -/
def selectorOf : Nat → Option Selector
  | 0 => some .next
  | 1 => some .numbered
  | _ => none

/-- The tag of a slot, stream or admin (R209, R210). -/
def slotTag (r : List Byte) : Word := BitVec.ofNat 32 (leField r 4 4)

/-- The notify option of a slot as read: bit 3 of byte 11 (R144). DEDUCED (log entry 13), unsafe: for a slot that finishes
ABORTED at its landing no rule says which byte gives it. -/
def slotNotify (r : List Byte) : Bool := (byteAt r 11).testBit 3

/-- The group a nonzero group field names. -/
def groupOf (v : Nat) : Option GroupId := if h : 1 ≤ v ∧ v ≤ 8 then some ⟨v - 1, by omega⟩ else none

/-- The fields of a record as they stand, whatever they are worth; a field that names nothing reads as
its first value, which `validCapture` refuses. -/
def readRequest (entry : EntryId) (kind : RequestKind) (r : List Byte) : Request where
  entry := entry
  kind := kind
  tag := slotTag r
  assembly := (assemblyOf (byteAt r 1)).getD .plain
  format := (formatOf (byteAt r 2)).getD .u16
  selector := (selectorOf (byteAt r 3)).getD .next
  number := BitVec.ofNat 16 (leField r 8 2)
  group := groupOf (byteAt r 10)
  deadline := leField r 12 2
  repair := (byteAt r 11).testBit 0
  subtract := (byteAt r 11).testBit 1
  acceptUnsettled := (byteAt r 11).testBit 2
  notify := slotNotify r
  top := leField r 14 2
  rows := leField r 16 2
  left := leField r 18 2
  cols := leField r 20 2
  pitch := leField r 24 4
  buffer := BitVec.ofNat 64 (leField r 32 8)
  length := leField r 40 8
  plane2 := BitVec.ofNat 64 (leField r 48 8)

/-- A MARK may set its kind, its tag and its notify option, and nothing else (R12). -/
def validMark (r : List Byte) : Bool :=
  zeroAt r (span 1 4) && zeroAt r (span 8 11) && (byteAt r 11 == 0 || byteAt r 11 == 8)
    && zeroAt r (span 12 64)

/-- The window and buffer of a CAPTURE fit together (R11, R12). -/
def Request.fits (q : Request) : Bool :=
  q.top ≤ 16383 && 1 ≤ q.rows && q.rows ≤ 16384 && q.top + q.rows ≤ 16384
    && q.left ≤ 4088 && q.left % 8 == 0 && 8 ≤ q.cols && q.cols ≤ 4096 && q.cols % 8 == 0
    && q.left + q.cols ≤ 4096
    && q.pitch % 64 == 0 && rowBytes q.format q.cols ≤ q.pitch && q.pitch ≤ 1048512
    && q.buffer.toNat % 64 == 0
    && q.pitch * (q.rows - 1) + rowBytes q.format q.cols ≤ q.length
    && q.buffer.toNat + q.length ≤ 2 ^ 64
    && (match q.assembly with
        | .split => q.plane2 != 0 && q.plane2.toNat % 64 == 0 && q.plane2.toNat + q.length ≤ 2 ^ 64
        | .plain | .merge => q.plane2 == 0)

/-- The checks R12 makes on a CAPTURE record. -/
def validCapture (r : List Byte) (q : Request) : Bool :=
  (assemblyOf (byteAt r 1)).isSome && (formatOf (byteAt r 2)).isSome && (selectorOf (byteAt r 3)).isSome
    && (q.selector != .next || q.number == 0)
    && byteAt r 10 ≤ 8 && (byteAt r 10 == 0 || q.selector != .numbered)
    && byteAt r 11 < 16
    && q.fits
    && zeroAt r (span 22 24) && zeroAt r (span 28 32) && zeroAt r (span 56 64)

/-- Fetch-time validation (R12): the request of a record that passes. DESIGN CHOICE (log entry 20), unsafe: of an answer
longer than the slot's 64 bytes (R185) the bytes past 64 are disregarded. -/
def validateRequest (entry : EntryId) (r : List Byte) : Option Request :=
  if byteAt r 0 = 1 then
    let q := readRequest entry .capture r
    if validCapture r q then some q else none
  else if byteAt r 0 = 2 then
    if validMark r then some (readRequest entry .mark r) else none
  else none

/-! ## The setup record (R212, R132) -/

/-- The SETUP address can be read: aligned, and its 64 bytes below 2^64 (R132). -/
def setupAddressGood (a : Addr) : Bool := a.toNat % 64 == 0 && a.toNat + 64 ≤ 2 ^ 64

/-- The values of a valid setup record (R132). DESIGN CHOICE (log entry 20), unsafe: of an answer longer than 64 bytes
(R185) the bytes past 64 are disregarded. -/
def readSetup (r : List Byte) : Option Setup :=
  let adminBase := leField r 0 8
  let adminLog := byteAt r 8
  let completionLog := byteAt r 9
  let threshold := byteAt r 10
  let timeout := byteAt r 11
  let time := leField r 12 2
  let completionBase := leField r 16 8
  if adminBase % 64 == 0 && 2 ≤ adminLog && adminLog ≤ 8
      && completionBase % 64 == 0 && 2 ≤ completionLog && completionLog ≤ 12
      && 1 ≤ threshold && threshold ≤ 64 && time ≤ 1023 && 1 ≤ timeout
      && adminBase + 64 * 2 ^ adminLog ≤ 2 ^ 64
      && completionBase + 32 * 2 ^ completionLog ≤ 2 ^ 64
      && zeroAt r (span 14 16) && zeroAt r (span 24 64) then
    some ⟨BitVec.ofNat 64 adminBase, 2 ^ adminLog, BitVec.ofNat 64 completionBase, 2 ^ completionLog,
      threshold, time, timeout⟩
  else none

/-! ## The admin command record (R210, R156) -/

/-- The stream a target byte names. -/
def streamOf (v : Nat) : Option StreamId := if h : v < 4 then some ⟨v, h⟩ else none

/-- The profile fields of a CONFIGURE_STREAM record (R210). -/
def readProfileFields (r : List Byte) : ProfileFields where
  profileId := r.getD 8 0
  layout := r.getD 9 0
  maxLag := r.getD 10 0
  quota := r.getD 11 0
  lineLength := BitVec.ofNat 16 (leField r 12 2)
  frameHeight := BitVec.ofNat 16 (leField r 14 2)
  mergeRatio := r.getD 16 0
  settleFrames := r.getD 17 0
  referenceRows := r.getD 18 0
  gapTimeout := r.getD 19 0
  knee := BitVec.ofNat 16 (leField r 20 2)
  fixedBlack := BitVec.ofNat 16 (leField r 22 2)

/-- The unused bytes of a record whose flag bit is unused and whose arguments end before `o` are zero. -/
def unusedFrom (r : List Byte) (flagUsed : Bool) (o : Nat) : Bool :=
  (byteAt r 2 == 0 || (flagUsed && byteAt r 2 == 1)) && byteAt r 3 == 0 && zeroAt r (span o 64)

/-- The command of an admin record; `none` where the code names no command, the target lies outside its
range or an unused byte or bit is nonzero (R156). DESIGN CHOICE (log entry 20), unsafe: of an answer longer than the
slot's 64 bytes (R185) the bytes past 64 are disregarded. -/
def readAdminOp (r : List Byte) : Option AdminOp :=
  let flag := byteAt r 2 == 1
  let arg8 := BitVec.ofNat 64 (leField r 8 8)
  match byteAt r 0 with
  | 1 => if unusedFrom r false 17 then (streamOf (byteAt r 1)).map (.createRing · arg8 (byteAt r 16)) else none
  | 2 => if unusedFrom r false 8 then (streamOf (byteAt r 1)).map .deleteRing else none
  | 3 => if unusedFrom r true 24 then
           (streamOf (byteAt r 1)).map (.configureStream · flag (readProfileFields r)) else none
  | 4 => if unusedFrom r false 18 then
           (streamOf (byteAt r 1)).map (.loadDefects · arg8 (leField r 16 2)) else none
  | 5 => if unusedFrom r false 8 then (streamOf (byteAt r 1)).map .abortStream else none
  | 6 => if unusedFrom r true 8 then (streamOf (byteAt r 1)).map (.resumeStream · flag) else none
  | 7 => if unusedFrom r false 12 && byteAt r 9 == 0 then
           (groupOf (byteAt r 1)).map (.openGroup · (r.getD 8 0) (leField r 10 2)) else none
  | 8 => if unusedFrom r false 8 then (groupOf (byteAt r 1)).map .closeGroup else none
  | 9 => if unusedFrom r true 16 then (streamOf (byteAt r 1)).map (.readStats · arg8 flag) else none
  | _ => none

/-- The profile of fields that lie in range (R162); a quota and a lag are 0 for SINGLE. -/
def profileOf (f : ProfileFields) : Option Profile :=
  let lag := f.maxLag.toNat
  let quota := f.quota.toNat
  let paired := f.layout == 1
  if f.profileId.toNat ≤ 15
      && 8 ≤ f.lineLength.toNat && f.lineLength.toNat ≤ 4096 && f.lineLength.toNat % 8 == 0
      && 1 ≤ f.frameHeight.toNat && f.frameHeight.toNat ≤ 16384
      && f.layout.toNat ≤ 1
      && (if paired then 1 ≤ lag && lag ≤ 64 && lag + 1 ≤ quota && quota ≤ 128 else lag == 0 && quota == 0)
      && 1 ≤ f.mergeRatio.toNat && f.mergeRatio.toNat ≤ 64
      && f.knee != 0 && f.settleFrames.toNat ≤ 3 && f.referenceRows.toNat ≤ 16
      && f.gapTimeout != 0 then
    some {
      id := BitVec.ofNat 4 f.profileId.toNat
      lineLength := f.lineLength.toNat
      frameHeight := f.frameHeight.toNat
      layout := if paired then .paired else .single
      maxLag := lag
      quota := quota
      mergeRatio := f.mergeRatio.toNat
      knee := f.knee.toNat
      settleFrames := f.settleFrames.toNat
      referenceRows := f.referenceRows.toNat
      fixedBlack := f.fixedBlack
      gapTimeout := f.gapTimeout.toNat }
  else none

/-! ## The defect list (R213, R166) -/

/-- The method a code names (R213). -/
def methodOf : Nat → Option DefectMethod
  | 0 => some .average
  | 1 => some .left
  | 2 => some .right
  | _ => none

/-- The entry of index `e` of a list, if its own fields are good (R166, R213). -/
def defectAt (list : List Byte) (e : Nat) : Option DefectEntry :=
  let row := leField list (4 * e) 2
  let w := leField list (4 * e + 2) 2
  match methodOf (w / 8192 % 4) with
  | some m => if row ≤ 16383 && w % 8192 ≤ 4095 && w / 32768 == 0 then some ⟨row, w % 8192, m⟩ else none
  | none => none

/-- Strictly before, by row and then by column (R166). -/
def DefectEntry.before (a b : DefectEntry) : Bool := a.row < b.row || (a.row == b.row && a.column < b.column)

/-- The entries `e`, `e + 1`, … of a list, each good and strictly after the one before it. -/
def defectsFrom (list : List Byte) : Nat → Nat → Option DefectEntry → Option (List DefectEntry)
  | 0, _, _ => some []
  | n + 1, e, last =>
    match defectAt list e with
    | some d =>
      if last.all (·.before d) then (defectsFrom list n (e + 1) (some d)).map (d :: ·) else none
    | none => none

/-- The validated table of a list of `count` entries read in `bursts` bursts (R166). -/
def readDefects (list : List Byte) (count bursts : Nat) : Option (List DefectEntry) :=
  if zeroAt list (span (4 * count) (256 * bursts)) then defectsFrom list count 0 none else none

/-- The number of 256-byte bursts of a list (R164). -/
def burstsOf (count : Nat) : Nat := (count * 4 + 255) / 256

/-! ## Words and packets (R58, R207, R208) -/

/-- The four classes of word (R58). -/
inductive WordClass
  | idle | train | data (value : Half) | illegal
  deriving DecidableEq, Repr

/-- The class of a control word, by its code; `none` is a word the decoder could not decode (R58). -/
def controlClass : Option Half → WordClass
  | some c => if c = idleCode then .idle else if c = trainCode then .train else .illegal
  | none => .illegal

/-- One bit into a cyclic check: no reflection, no inversion (R208). -/
def crcBit {w : Nat} (poly reg : BitVec w) (b : Bool) : BitVec w :=
  if reg.msb != b then (reg <<< 1) ^^^ poly else reg <<< 1

/-- One word into a cyclic check, from bit 15 down to bit 0 (R208). -/
def crcWord {w : Nat} (poly reg : BitVec w) (x : Half) : BitVec w :=
  (List.range 16).foldl (fun r i => crcBit poly r (x.getMsbD i)) reg

/-- The header check over the first three header words (R208). -/
def headerCheck (words : List Half) : BitVec 8 := words.foldl (crcWord 0x07#8) 0xFF#8

/-- The payload check before any pixel word (R208). -/
def payloadStart : Half := 0xFFFF#16

/-- One pixel word into the payload check (R208). -/
def payloadStep (check x : Half) : Half := crcWord 0x1021#16 check x

/-- What a good header says (R64, R65). -/
inductive Header
  | frameStart (number : Half) (profileId : BitVec 4)
  | line (index : BitVec 14) (exposure : Exposure) (pixels : Nat)
  | frameEnd (number lineCount : Half)
  deriving DecidableEq, Repr

/-- The exposure a code names (R207). -/
def exposureOf : BitVec 2 → Option Exposure
  | 1 => some .single
  | 2 => some .long
  | 3 => some .short
  | _ => none

/-- A header whose check passes, read for its kind and fields; `none` is malformed (R64, R207). -/
def readHeader (kind field1 field2 : Half) : Option Header :=
  if kind = 0x00A1#16 then
    if field2.toNat < 16 then some (.frameStart field1 (field2.setWidth 4)) else none
  else if kind = 0x00A2#16 then
    match exposureOf (field1.extractLsb' 14 2) with
    | some e =>
      if 1 ≤ field2.toNat && field2.toNat ≤ 4096 then some (.line (field1.setWidth 14) e field2.toNat)
      else none
    | none => none
  else if kind = 0x00A3#16 then some (.frameEnd field1 field2)
  else none

/-- A header is good when its check passes and it is not malformed (R63, R64). -/
def judgeHeader (w0 w1 w2 w3 : Half) : Option Header :=
  if w3 = (headerCheck [w0, w1, w2]).setWidth 16 then readHeader w0 w1 w2 else none

/-! ## Bursts (R181) -/

/-- The length of a burst that begins at `a` with `left` bytes of the line unissued (R181). -/
def burstLength (a : Addr) (left : Nat) : Nat := min 256 (min left (4096 - a.toNat % 4096))

/-! ## The records the LA4 writes -/

/-- Status codes (R211). -/
def Status.code : Status → Nat
  | .ok => 0x00 | .short => 0x01 | .damaged => 0x02 | .truncated => 0x03
  | .linkLost => 0x04 | .aborted => 0x05 | .writeFault => 0x06 | .expired => 0x07
  | .missed => 0x08 | .invalid => 0x09 | .groupBroken => 0x0A | .fetchFault => 0x0B
  | .busy => 0x0C | .noResource => 0x0D | .tableError => 0x0E | .readFault => 0x0F

/-- Group status codes (R211). -/
def GroupStatus.code : GroupStatus → Nat
  | .none => 0 | .groupOk => 1 | .groupBroken => 2

/-- A completion record with the ring it is for and its lap flag (R211, R24, R157). -/
def completionRecord (source : RingId) (e : HoldingEntry) (lap : Bool) : List Byte :=
  let r := e.report
  [BitVec.ofNat 8 source.val, BitVec.ofNat 8 r.status.code, BitVec.ofNat 8 e.groupStatus.code,
    BitVec.ofNat 8 ((if r.framePresent then 1 else 0) + (if r.unsettled then 2 else 0)
      + (if lap then 128 else 0))]
  ++ leBytes 2 e.slotIndex ++ leBytes 2 r.frame.toNat ++ leBytes 4 r.tag.toNat
  ++ leBytes 4 r.startTime.toNat
  ++ leBytes 2 r.counters.written.toNat ++ leBytes 2 r.counters.short.toNat
  ++ leBytes 2 r.counters.damaged.toNat ++ leBytes 2 r.counters.unpaired.toNat
  ++ leBytes 2 r.counters.late.toNat ++ leBytes 2 r.counters.overrun.toNat
  ++ leBytes 4 r.detail.toNat

/-- Stream state codes (R214). -/
def StreamStatus.code : StreamStatus → Nat
  | .disabled => 0 | .unlinked => 1 | .betweenFrames => 2 | .inFrame => 3

/-- The statistics block (R214). -/
def statisticsBlock (n : Snapshot) : List Byte :=
  let c := n.stats
  leBytes 4 c.framesSeen.toNat ++ leBytes 4 c.framesBound.toNat ++ leBytes 4 c.framesUnclaimed.toNat
  ++ leBytes 4 c.framesForeign.toNat ++ leBytes 4 c.framesTruncated.toNat
  ++ leBytes 4 c.linesDamaged.toNat ++ leBytes 4 c.packetsStray.toNat
  ++ leBytes 4 c.linesOverrun.toNat ++ leBytes 4 c.linesUnpaired.toNat
  ++ leBytes 4 c.linesLate.toNat ++ leBytes 4 c.evictions.toNat
  ++ leBytes 4 c.laneLosses.toNat ++ leBytes 4 c.headerErrors.toNat
  ++ leBytes 2 n.lastLineCount.toNat ++ [BitVec.ofNat 8 n.status.code] ++ List.replicate 9 0

/-! ## Registers (R216, R217) -/

/-- Device state codes (R216). -/
def DeviceState.code : DeviceState → Nat
  | .off => 0 | .starting => 1 | .running => 2 | .stopping => 3 | .resetting => 4 | .faulted => 5

/-- Fault cause codes (R216). -/
def FaultCause.code : FaultCause → Nat
  | .none => 0 | .setupInvalid => 1 | .setupRead => 2 | .completionWrite => 3 | .adminFetch => 4
  | .quarantine => 5

/-- The ring a selector names (R217). -/
def ringOf (selector : Byte) : Option RingId :=
  if h : selector.toNat < 5 then some ⟨selector.toNat, h⟩ else none

/-- What a read of the register at an offset returns; no register, and PRODUCER, read 0 (R203, R216, R217).
DESIGN CHOICE (log entry 19), safe: a read is a function of the state, not a command. -/
def State.readRegister (s : State) (offset : Word) : Word :=
  if offset = 0x00#32 then Config.identification
  else if offset = 0x04#32 then
    BitVec.ofNat 32 ((if s.enable then 1 else 0) + (if s.softReset then 2 else 0))
  else if offset = 0x08#32 then BitVec.ofNat 32 (s.device.code + 256 * s.cause.code)
  else if offset = 0x0C#32 then s.setupAddress.setWidth 32
  else if offset = 0x10#32 then s.setupAddress.extractLsb' 32 32
  else if offset = 0x18#32 then s.completion.post ++ s.completion.consumed
  else if offset = 0x1C#32 then s.irqStatus.setWidth 32
  else if offset = 0x20#32 then s.irqEnable.setWidth 32
  else if offset = 0x24#32 then s.timeBase
  else 0

end Sys2Proof.Machine
end

