-- ==== Sys2Proof/Machine/Ops.lean ====
section
/-! DEFINITION. The named operations over the machine's parts: streams and captures, holding entries,
rings and the trackers of the Memory Port. -/

namespace Sys2Proof.Machine

/-! ## Streams and captures -/

/-- Change one stream. -/
def State.onStream (s : State) (i : StreamId) (f : StreamState → StreamState) : State :=
  { s with streams := s.streams.set i (f s.streams[i]) }

/-- Raise statistics counters of a stream. -/
def State.bump (s : State) (i : StreamId) (f : Stats → Stats) : State :=
  s.onStream i fun x => { x with stats := f x.stats }

/-- The capture in a context, if the context is held. -/
def State.capture? (s : State) (i : StreamId) (c : ContextId) : Option Capture := s.streams[i].contexts[c]

/-- Change the capture of a held context; a free context stays free. -/
def State.onCapture (s : State) (i : StreamId) (c : ContextId) (f : Capture → Capture) : State :=
  s.onStream i fun x => { x with contexts := x.contexts.set c (x.contexts[c].map f) }

/-- Change a capture's row counters. -/
def State.onCounters (s : State) (i : StreamId) (c : ContextId) (f : RowCounters → RowCounters) : State :=
  s.onCapture i c fun k => { k with counters := f k.counters }

/-- The stream state, set at every moment by profile, lane enable, lane and frame (R26). -/
def StreamState.status (x : StreamState) : StreamStatus :=
  if x.active.isNone || !x.laneEnable then .disabled
  else if x.lane.state != .run then .unlinked
  else if x.frame.isNone then .betweenFrames
  else .inFrame

/-- The free context a binding takes: the lower one, which no rule lets software see (R17). DESIGN CHOICE (log entry
10), safe. -/
def StreamState.freeContext (x : StreamState) : Option ContextId :=
  (List.finRange 2).find? fun c => x.contexts[c].isNone

/-- A row into a rising list of rows. -/
def insertRow (r : Nat) : List Nat → List Nat
  | [] => [r]
  | a :: rest => if r < a then r :: a :: rest else if r = a then a :: rest else a :: insertRow r rest

/-! ## Group entries -/

/-- Change one group entry. -/
def State.onGroup (s : State) (g : GroupId) (f : Group → Group) : State :=
  { s with groups := s.groups.set g (f s.groups[g]) }

/-- Change one member slot. -/
def Group.setSlot (e : Group) (i : StreamId) (x : MemberSlot) : Group := { e with slots := e.slots.set i x }

/-! ## Rings -/

/-- The ring of a stream. -/
def ringOfStream (i : StreamId) : RingId := i.succ

/-- The stream of a ring; none for the admin ring. -/
def streamOfRing (r : RingId) : Option StreamId := if h : r = 0 then none else some (r.pred h)

/-- Change one request ring. -/
def State.onRing (s : State) (r : RingId) (f : Ring → Ring) : State :=
  { s with rings := s.rings.set r (f s.rings[r]) }

/-- Pending requests of a ring (R1). -/
def Ring.pendingCount (r : Ring) : Nat := (r.producer - r.fetched).toNat

/-- Records posted and not yet consumed (R1). -/
def CompletionRing.unread (c : CompletionRing) : Nat := (c.post - c.consumed).toNat

/-- The completion ring has space for a record (R146). -/
def CompletionRing.hasSpace (c : CompletionRing) : Bool := c.unread < c.slots

/-! ## The Completion Holding List -/

/-- The ring whose partition a holding entry belongs to (R143). -/
def ringOfEntry (e : EntryId) : RingId :=
  if e.val < 2 then 0 else ⟨(e.val - 2) / 6 + 1, by have := e.isLt; simp only [Config.holdingEntries] at this; omega⟩

/-- The entries of a ring's partition. -/
def entriesOf (r : RingId) : List EntryId := (List.finRange Config.holdingEntries).filter (ringOfEntry · = r)

/-- Change one holding entry. -/
def State.onEntry (s : State) (e : EntryId) (f : HoldingEntry → HoldingEntry) : State :=
  { s with holding := s.holding.set e (f s.holding[e]) }

/-- A finished request's outcome goes to its entry, which becomes READY (R144). -/
def State.entryReady (s : State) (e : EntryId) (report : Report) (counted : Bool) : State :=
  s.onEntry e fun h => { h with state := .ready, report := report, counted := counted, groupStatus := .none }

/-- A finished group member's outcome goes to its entry, which becomes PARKED (R125). -/
def State.entryParked (s : State) (e : EntryId) (report : Report) : State :=
  s.onEntry e fun h => { h with state := .parked, report := report }

/-- A FREE entry of a ring's partition, if there is one: the lowest. DESIGN CHOICE (log entry 10), safe. -/
def State.freeEntry (s : State) (r : RingId) : Option EntryId :=
  (entriesOf r).find? fun e => s.holding[e].state = .free

/-- The place behind every entry of a ring (R139). DESIGN CHOICE (log entry 16), safe: only the order is read. -/
def State.nextOrder (s : State) (r : RingId) : Nat :=
  (entriesOf r).foldl (fun n e => if s.holding[e].state = .free then n else max n (s.holding[e].order + 1)) 0

/-- READY, with no earlier entry of its ring still RESERVED, PARKED or READY (R145). -/
def State.eligible (s : State) (e : EntryId) : Bool :=
  s.holding[e].state = .ready &&
    (entriesOf (ringOfEntry e)).all fun f =>
      s.holding[e].order ≤ s.holding[f].order || s.holding[f].state = .free || s.holding[f].state = .posting

/-- Every entry that has become eligible joins the tail of the post queue, admin first and then the
streams in order (R145). -/
def State.enqueue (s : State) : State :=
  { s with postQueue := s.postQueue ++
      (List.finRange Config.holdingEntries).filter fun e => s.eligible e && !s.postQueue.contains e }

/-- All 26 holding entries are FREE (R197). -/
def State.listEmpty (s : State) : Bool := s.holding.toList.all (·.state = .free)

/-! ## The Memory Port -/

/-- The lowest-numbered FREE entry of a tracker (R178). -/
def lowestFree {n : Nat} (v : Vector TrackerEntry n) : Option (Fin n) := (List.finRange n).find? fun i => v[i] = .free

/-- The read tracker entry an ID names; none where it names no entry. -/
def State.readEntry (s : State) (id : Nat) : Option TrackerEntry := s.reads[id]?

/-- The write tracker entry an ID names; none where it names no entry. -/
def State.writeEntry (s : State) (id : Nat) : Option TrackerEntry := s.writes[id]?

/-- The entry an ID names in a direction. -/
def State.trackerEntry (s : State) : Direction → Nat → Option TrackerEntry
  | .read, id => s.readEntry id
  | .write, id => s.writeEntry id

/-- Write a tracker entry; an ID that names no entry changes nothing. -/
def State.setTracker (s : State) : Direction → Nat → TrackerEntry → State
  | .read, id, e => { s with reads := s.reads.setIfInBounds id e }
  | .write, id, e => { s with writes := s.writes.setIfInBounds id e }

/-- The response timeout of the setup record. Every transaction but the setup read is issued after one was
accepted; without one the value is the setup read's 255 ms (R177, R178). DESIGN CHOICE (log entry 14), safe: no run
reaches that. -/
def State.responseTimeout (s : State) : Nat :=
  match s.setup with
  | some v => v.responseTimeout
  | none => Config.setupTimeout

/-- Issue a read in the lowest FREE entry; with none the request waits (R178, R179, R180). -/
def State.issueRead (s : State) (kind : TransactionKind) (owner : Owner) (address : Addr) (count timeout : Nat) : State :=
  match lowestFree s.reads with
  | some i =>
    { s with
      reads := s.reads.set i (.issued ⟨kind, some owner, address, count, s.timeBase, timeout, []⟩)
      handed := some ⟨.read, i, address, count, []⟩ }
  | none => s

/-- Issue a write in the lowest FREE entry and hand its data over; with none the request waits (R178, R179). -/
def State.issueWrite (s : State) (kind : TransactionKind) (owner : Owner) (address : Addr) (data : List Byte) : State :=
  match lowestFree s.writes with
  | some i =>
    { s with
      writes := s.writes.set i
        (.issued ⟨kind, some owner, address, data.length, s.timeBase, s.responseTimeout, []⟩)
      handed := some ⟨.write, i, address, data.length, data⟩ }
  | none => s

/-- What a read that has all its beats is answered with (R183). -/
inductive ReadAnswer
  | data (bytes : List Byte)
  | error
  deriving DecidableEq, Repr

/-- Every beat carries the code OKAY (R183). -/
def beatsOkay (beats : List Beat) : Bool := beats.all (·.code = .okay)

/-- A read is answered OK, with the data of its beats in order, when every beat carries OKAY; otherwise it is answered
with an error and no data are handed on (R183). -/
def readAnswer (beats : List Beat) : ReadAnswer :=
  if beatsOkay beats then .data (beats.flatMap (·.data)) else .error

/-- A beat that is not its read's last is collected in its ISSUED entry's buffer (R183); at any other entry it is
discarded (R185, R188). -/
def State.collectBeat (s : State) (id : Nat) (b : Beat) : State :=
  match s.readEntry id with
  | some (.issued t) => s.setTracker .read id (.issued { t with beats := t.beats ++ [b] })
  | _ => s

/-- The Memory Port is idle: all 72 entries FREE (R191). -/
def State.portIdle (s : State) : Bool := s.reads.toList.all (· = .free) && s.writes.toList.all (· = .free)

/-- What a response that names entry `id` meets (R183, R184, R185, R188, R191). -/
inductive Meeting
  /-- A FREE entry, or no entry: the response is stray. -/
  | stray
  /-- A QUARANTINED entry: the response is late. -/
  | late
  /-- An ISSUED entry in RESETTING: the response reaches no block. -/
  | resetting
  /-- An ISSUED entry: the response answers its transaction. -/
  | answers (t : Transaction)
  deriving DecidableEq, Repr

/-- What a response on an ID meets: matched by ID alone (R185). DESIGN CHOICE (log entry 5), safe: the command of another
kind of transaction changes nothing. -/
def State.meeting (s : State) (d : Direction) (id : Nat) : Meeting :=
  match s.trackerEntry d id with
  | some (.issued t) => if s.device = .resetting then .resetting else .answers t
  | some (.quarantined _) => .late
  | some .free => .stray
  | none => .stray

/-- A late response frees its entry and lowers the quarantine count (R188). -/
def State.lateFreed (s : State) (d : Direction) (id : Nat) : State :=
  { s.setTracker d id .free with quarantine := s.quarantine - 1 }

/-- The requester the write-issue rotation searches first, second, … (R182). -/
def rotation {n : Nat} (first : Fin n) : List (Fin n) :=
  (List.finRange n).filter (first ≤ ·) ++ (List.finRange n).filter (· < first)

/-- A requester of the write-issue rotation is ready (R182). -/
def State.requesterReady (s : State) (q : RequesterId) : Bool :=
  if q = 0 then !s.postQueue.isEmpty && s.completion.hasSpace
  else if q = 1 then (match s.admin.snapshot with | some n => !n.issued | none => false)
  else (match streamOf (q.val - 2) with | some i => !s.streams[i].buffer.isEmpty | none => false)

/-- The requester the rotation grants now, if it grants one (R182). -/
def State.granted (s : State) : Option RequesterId :=
  if (s.device = .running || s.device = .stopping) && (lowestFree s.writes).isSome then
    (rotation s.writeRotation).find? s.requesterReady
  else none

/-- The requester after a granted one; the completion writer comes after stream 3 (R182). -/
def afterRequester (q : RequesterId) : RequesterId := q + 1

end Sys2Proof.Machine
end

