-- ==== Sys2Proof/Machine/Groups.lean ====
section
/-! DEFINITION. The Group Table and the head of a prefetch list: registration, claims, breaking, parking
and resolution (chapter 6), and what a new head does (R15). -/

namespace Sys2Proof.Machine

/-! ## Membership -/

/-- A slot holds this request. -/
def MemberSlot.holds (x : MemberSlot) (q : Request) : Bool :=
  match x.request with
  | some r => r.entry = q.entry
  | none => false

/-- The group a request of a stream is an unfinished member of (R113, R121). -/
def State.memberOf (s : State) (i : StreamId) (q : Request) : Option GroupId :=
  match q.group with
  | some g =>
    let x := s.groups[g].slots[i]
    if (x.progress = .registered || x.progress = .bound) && x.holds q then some g else none
  | none => none

/-- A finished member slot (R121). -/
def MemberSlot.done (q : Request) (status : Status) : MemberSlot := ⟨.finished, some q, some status⟩

/-- The report of a request that bound no frame (R16, R24). -/
def Request.unboundReport (q : Request) (status : Status) : Report := .unbound status q.tag 0

/-- A request's outcome is recorded: a member's slot is finished and its entry PARKED, any other entry is
READY (R125, R144). What the finish does to the group is `memberFinished`. -/
def State.record (s : State) (i : StreamId) (q : Request) (report : Report) : State :=
  match s.memberOf i q with
  | some g => (s.entryParked q.entry report).onGroup g (·.setSlot i (.done q report.status))
  | none => s.entryReady q.entry report q.notify

/-! ## Registration (R116, R117) -/

/-- A CAPTURE that has become WAITING registers with its group, if it names one; `true` when it stays
WAITING (R116). -/
def State.register (s : State) (i : StreamId) (q : Request) : State × Bool :=
  match q.group with
  | none => (s, true)
  | some g =>
    let e := s.groups[g]
    if e.state = .free || !e.mask[i] || e.slots[i].progress != .empty then
      (s.entryReady q.entry (q.unboundReport .invalid) q.notify, false)
    else if e.state = .broken then
      ((s.entryParked q.entry (q.unboundReport .groupBroken)).onGroup g
        (·.setSlot i (.done q .groupBroken)), false)
    else (s.onGroup g (·.setSlot i ⟨.registered, some q, none⟩), true)

/-- The prefetch list becomes the one given, and R15 applies to its head: a MARK finishes OK, a CAPTURE
becomes WAITING, and a head that finishes at once makes the next one the head. -/
def adoptHead (i : StreamId) : List Request → State → State
  | [], s => s.onStream i fun x => { x with prefetch := [], deadline := none }
  | q :: rest, s =>
    match q.kind with
    | .mark => adoptHead i rest (s.entryReady q.entry (q.unboundReport .ok) q.notify)
    | .capture =>
      match s.register i q with
      | (s, true) => s.onStream i fun x =>
          { x with prefetch := q :: rest, deadline := if q.deadline = 0 then none else some s.timeBase }
      | (s, false) => adoptHead i rest s

/-- R15 on the request that has become head of a stream's list. -/
def State.newHead (s : State) (i : StreamId) : State := adoptHead i s.streams[i].prefetch s

/-! ## Resolution (R126, R127, R128) -/

/-- A FIXED entry resolves when every stream of its mask has finished, a BROKEN one when no slot is
registered or bound. -/
def Group.resolves (e : Group) : Bool :=
  match e.state with
  | .fixed => (List.finRange 4).all fun i => !e.mask[i] || e.slots[i].progress = .finished
  | .broken => (List.finRange 4).all fun i =>
      e.slots[i].progress = .empty || e.slots[i].progress = .finished
  | .free => false
  | .opened => false

/-- The group status an entry releases its members with (R128). -/
def Group.verdict (e : Group) : GroupStatus := if e.state = .fixed then .groupOk else .groupBroken

/-- A parked member's entry takes its group status and becomes READY (R128, R144). -/
def State.releaseMember (verdict : GroupStatus) (e : Group) (s : State) (i : StreamId) : State :=
  match e.slots[i].progress, e.slots[i].request with
  | .finished, some q => s.onEntry q.entry fun h =>
      { h with state := .ready, groupStatus := verdict, counted := q.notify }
  | _, _ => s

/-- A group that resolves releases its members from the lowest stream up and is FREE (R128). -/
def State.resolveGroup (s : State) (g : GroupId) : State :=
  let e := s.groups[g]
  if e.resolves then
    ((List.finRange 4).foldl (State.releaseMember e.verdict e) s).onGroup g fun _ => .free
  else s

/-! ## Breaking (R122) -/

/-- The streams of a group whose member is registered and unbound. -/
def Group.waiting (e : Group) : List StreamId := (List.finRange 4).filter fun i => e.slots[i].progress = .registered

/-- A registered member finishes GROUP_BROKEN and leaves its list, its deadline stopped (R54, R122). -/
def State.breakMember (g : GroupId) (s : State) (i : StreamId) : State :=
  match s.groups[g].slots[i].request with
  | some q =>
    ((s.entryParked q.entry (q.unboundReport .groupBroken)).onGroup g
      (·.setSlot i (.done q .groupBroken))).onStream i
        fun x => { x with prefetch := x.prefetch.filter (·.entry ≠ q.entry), deadline := none }
  | none => s.onGroup g (·.setSlot i ⟨.finished, none, some .groupBroken⟩)

/-- An entry in OPEN or FIXED becomes BROKEN and its registered members finish. The test of R127 is made at the break
itself: with no bound member the group resolves and is FREE before the requests behind its members become heads, so
that a head that names it is refused (R117). An entry in another state is unchanged (R122). -/
def State.breakGroup (s : State) (g : GroupId) : State :=
  let e := s.groups[g]
  if e.state = .opened || e.state = .fixed then
    let s := s.onGroup g fun e => { e with state := .broken, timer := none }
    let s := e.waiting.foldl (State.breakMember g) s
    e.waiting.foldl State.newHead (s.resolveGroup g)
  else s

/-- Every entry in OPEN or FIXED whose mask names a stream breaks (R124). DESIGN CHOICE (log entry 22), unsafe: R124
gives no order, and the model breaks them from the lowest group id up, the new heads of one break registering before
the next. -/
def State.breakGroupsOf (s : State) (i : StreamId) : State :=
  (List.finRange 8).foldl (fun s g => if s.groups[g].mask[i] then s.breakGroup g else s) s

/-- The timer stops once no member slot of the mask is empty or registered (R115). -/
def Group.timed (e : Group) : Group :=
  if (List.finRange 4).any fun i => e.mask[i] && (e.slots[i].progress = .empty || e.slots[i].progress = .registered)
  then e else { e with timer := none }

/-- What a member's finish does to its group: a status other than OK and DAMAGED breaks it, and the group resolves in
the same event if it awaits no member any longer (R121, R126, R127). -/
def State.memberFinished (s : State) (g : Option GroupId) (status : Status) : State :=
  match g with
  | none => s
  | some g => (if status.keepsGroup then s.onGroup g Group.timed else s.breakGroup g).resolveGroup g

/-! ## The head finishes without a frame (R16) -/

/-- The head of a stream's list finishes: it leaves the list, its timer stops, its group is told, and the
request behind it becomes head. -/
def State.finishHead (s : State) (i : StreamId) (status : Status) : State :=
  match s.streams[i].prefetch with
  | [] => s
  | q :: rest =>
    let g := s.memberOf i q
    let s := s.record i q (q.unboundReport status)
    let s := s.onStream i fun x => { x with prefetch := rest, deadline := none }
    (s.memberFinished g status).newHead i

/-! ## Frame claims (R118) -/

/-- The answer of the Group Table to a claim. -/
inductive Answer
  | bind | wait | missed
  deriving DecidableEq, Repr

/-- A claim judged against the entry as it stands; the entry of an answer Bind is fixed at the frame's
number and the slot bound (R118). The slot and the break of an answer MISSED follow at the finish. -/
def State.claim (s : State) (g : GroupId) (i : StreamId) (q : Request) (f : Half) (canBind : Bool) :
    Answer × State :=
  let e := s.groups[g]
  let bound := s.onGroup g fun e =>
    ({ e with state := .fixed, number := some f }.setSlot i ⟨.bound, some q, none⟩).timed
  match e.number with
  | none => if canBind then (.bind, bound) else (.wait, s)
  | some n =>
    match frameOrder f n with
    | .equal => if canBind then (.bind, bound) else (.missed, s)
    | .behind => (.wait, s)
    | .ahead => (.missed, s)

/-! ## Every group -/

/-- Every group that can resolve does. -/
def State.resolveGroups (s : State) : State := (List.finRange 8).foldl State.resolveGroup s

end Sys2Proof.Machine
end

