-- ==== Sys2Proof/Machine/Pixel.lean ====
section
/-! DEFINITION. The Pixel Path: defect repair, black level, crop, output formats, row addresses and entry
to the Line Output Buffer (chapter 4). -/

namespace Sys2Proof.Machine

/-! ## Defect repair (R80, R81) -/

/-- The floor of the mean of two pixels (R4). -/
def meanPixel (a b : Pixel) : Pixel := BitVec.ofNat 16 ((a.toNat + b.toNat) / 2)

/-- The replacement of the pixel `v` at column `c`, from the pixels as received (R81). -/
def replacement (m : DefectMethod) (px : List Pixel) (c : Nat) (v : Pixel) : Pixel :=
  match (if 2 ≤ c then px[c - 2]? else none), px[c + 2]?, m with
  | some a, some b, .average => meanPixel a b
  | some a, some _, .left => a
  | some _, some b, .right => b
  | some a, none, _ => a
  | none, some b, _ => b
  | none, none, _ => v

/-- The pixels from column `c` on, each replaced if the table lists it for this line (R80). -/
def repairFrom (table : List DefectEntry) (line : Nat) (px : List Pixel) : Nat → List Pixel → List Pixel
  | _, [] => []
  | c, v :: rest =>
    (match table.find? fun d => d.row == line && d.column == c with
      | some d => replacement d.method px c v
      | none => v) :: repairFrom table line px (c + 1) rest

/-- Every entry of the table that lists a received column of this line is applied (R80). -/
def repairLine (table : List DefectEntry) (line : Nat) (px : List Pixel) : List Pixel :=
  repairFrom table line px 0 px

/-! ## Black level (R82, R83, R84) -/

/-- The sum of a line's pixels. -/
def pixelSum (px : List Pixel) : Nat := px.foldl (fun n v => n + v.toNat) 0

/-- A reference row adds to an unfixed exposure (R82). -/
def Black.accumulate (b : Black) (px : List Pixel) : Black :=
  match b.value with
  | none => { b with sum := b.sum + pixelSum px, count := b.count + px.length }
  | some _ => b

/-- The black value is fixed at the first line at or beyond the reference rows (R83). -/
def Black.fix (b : Black) (fixedBlack : Pixel) : Black :=
  match b.value with
  | none => { b with value := some (if 0 < b.count then BitVec.ofNat 16 (b.sum / b.count) else fixedBlack) }
  | some _ => b

/-- Subtraction that saturates at 0 (R4, R84). -/
def subPixel (v b : Pixel) : Pixel := if v.toNat < b.toNat then 0 else v - b

/-- The black measurement of an exposure. -/
def Blacks.of (b : Blacks) : Exposure → Black
  | .single => b.single
  | .long => b.long
  | .short => b.short

/-- Change the black measurement of an exposure; the three are apart from one another (R83). -/
def Blacks.on (b : Blacks) (f : Black → Black) : Exposure → Blacks
  | .single => { b with single := f b.single }
  | .long => { b with long := f b.long }
  | .short => { b with short := f b.short }

/-- The black measurement after a line of an exposure (R82, R83). -/
def Capture.blacksAfter (k : Capture) (line : Nat) (e : Exposure) (px : List Pixel) : Blacks :=
  if k.request.subtract then
    if line < k.profile.referenceRows then k.blacks.on (·.accumulate px) e
    else k.blacks.on (·.fix k.profile.fixedBlack) e
  else k.blacks

/-- A line's pixels after step 3: reference rows are not subtracted (R84). -/
def Capture.subtracted (k : Capture) (line : Nat) (e : Exposure) (px : List Pixel) : List Pixel :=
  if k.request.subtract && k.profile.referenceRows ≤ line then
    match ((k.blacksAfter line e px).of e).value with
    | some b => px.map (subPixel · b)
    | none => px
  else px

/-! ## Crop (R85) and formats (R87) -/

/-- The columns of the window, those past the received pixels filled with 0 (R85). -/
def crop (left cols : Nat) (px : List Pixel) : List Pixel :=
  let kept := (px.drop left).take cols
  kept ++ List.replicate (cols - kept.length) 0

/-- A byte of a number's low bits. -/
def byteOf (v : Nat) : Byte := BitVec.ofNat 8 v

/-- A pair of 12-bit values in three bytes (R87). -/
def packPair (a b : Nat) : List Byte := [byteOf a, byteOf (a / 256 % 16 + 16 * (b % 16)), byteOf (b / 16)]

/-- P12 rows, two columns at a time; a width is a multiple of 8, so no column is left over (R87). -/
def packP12 : List Pixel → List Byte
  | a :: b :: rest => packPair (a >>> 4).toNat (b >>> 4).toNat ++ packP12 rest
  | [a] => packPair (a >>> 4).toNat 0
  | [] => []

/-- The stored bytes of a row (R87). -/
def convertRow : PixelFormat → List Pixel → List Byte
  | .u16, px => px.flatMap fun v : Pixel => leBytes 2 v.toNat
  | .u8, px => px.map fun v : Pixel => byteOf (v >>> 8).toNat
  | .p12, px => packP12 px

/-- The host address of a row (R88). -/
def Request.rowAddress (q : Request) (plane : Plane) (row : Nat) : Addr :=
  (match plane with | .one => q.buffer | .two => q.plane2) + BitVec.ofNat 64 (row * q.pitch)

/-! ## The Line Output Buffer (R89, R91, R104) -/

/-- The buffer of a stream has room (R89). -/
def State.hasRoom (s : State) (i : StreamId) : Bool := s.streams[i].buffer.length < Config.lineBufferDepth

/-- A row of a capture, ready for conversion. -/
structure Row where
  plane : Plane
  row : Nat
  pixels : List Pixel
  short : Bool
  damaged : Bool
  unpaired : Bool
  deriving DecidableEq, Repr

/-- The finished line of a row of a capture. -/
def Row.finished (r : Row) (q : Request) (c : ContextId) : OutputLine where
  context := c
  plane := r.plane
  row := r.row
  address := q.rowAddress r.plane r.row
  bytes := convertRow q.format r.pixels
  short := r.short
  damaged := r.damaged
  unpaired := r.unpaired
  issued := 0

/-- A line of a SPLIT capture that enters the buffer marks its exposure present (R111). -/
def Capture.markExposure (k : Capture) (plane : Plane) (row : Nat) : Capture :=
  match k.request.assembly, plane with
  | .split, .one => { k with rowsLong := insertRow row k.rowsLong }
  | .split, .two => { k with rowsShortExposure := insertRow row k.rowsShortExposure }
  | .plain, _ => k
  | .merge, _ => k

/-- A row is lost because the buffer is full (R89, R21, R55). -/
def State.lostRow (s : State) (i : StreamId) (c : ContextId) : State :=
  (s.onCounters i c fun n => { n with overrun := satInc n.overrun }).bump i fun n =>
    { n with linesOverrun := satInc n.linesOverrun }

/-- A produced row: dropped for a capture that recorded WRITE_FAULT or ABORTED (R91), lost when the
buffer is full, and otherwise entered at the tail (R89). -/
def State.produceRow (s : State) (i : StreamId) (c : ContextId) (r : Row) : State :=
  match s.capture? i c with
  | none => s
  | some k =>
    if k.causes.writeFault || k.causes.aborted then s
    else if s.hasRoom i then
      (s.onStream i fun x => { x with buffer := x.buffer ++ [r.finished k.request c] }).onCapture i c
        fun k => k.markExposure r.plane r.row
    else s.lostRow i c

end Sys2Proof.Machine
end

