-- ==== Sys2Proof/Machine/Pairing.lean ====
section
/-! DEFINITION. The Pairing Store: quotas and reservations, long and short lines, eviction, flush and
release (chapter 5). Held lines stand in arrival order. -/

namespace Sys2Proof.Machine

/-! ## Quotas and reservations (R95, R96) -/

/-- The quota of a profile, or 0 with none (R95). -/
def quotaOf (p : Option Profile) : Nat :=
  match p with
  | some p => p.quota
  | none => 0

/-- The slots held for a stream's captures (R95). -/
def State.heldCount (s : State) (i : StreamId) : Nat := (s.pairing.filter (·.stream = i)).length

/-- The reservation of a stream: the largest of its two quotas and its held count (R95). -/
def State.reservation (s : State) (i : StreamId) : Nat :=
  max (quotaOf s.streams[i].active) (max (quotaOf s.streams[i].staged) (s.heldCount i))

/-- The reservation a stream would have with a new profile's quota (R96). -/
def State.wouldReserve (s : State) (i : StreamId) (quota : Nat) : Nat :=
  max (quotaOf s.streams[i].active) (max quota (s.heldCount i))

/-- The reservations of the streams other than `i`. -/
def State.otherReservations (s : State) (i : StreamId) : Nat :=
  (((List.finRange 4).filter (· ≠ i)).map s.reservation).sum

/-- A profile's quota fits beside the other streams' reservations (R96). -/
def State.quotaFits (s : State) (i : StreamId) (quota : Nat) : Bool :=
  s.wouldReserve i quota + s.otherReservations i ≤ Config.pairingSlots

/-! ## Held lines -/

/-- Whether a held line belongs to a capture. -/
def HeldLine.ownedBy (h : HeldLine) (i : StreamId) (c : ContextId) : Bool := h.stream = i && h.context = c

/-- A capture holds a slot. -/
def State.holdsLines (s : State) (i : StreamId) (c : ContextId) : Bool := s.pairing.any (·.ownedBy i c)

/-- The long-only row of a held line (R104). -/
def HeldLine.longRow (h : HeldLine) (top : Nat) : Row :=
  ⟨.one, h.index - top, h.pixels, h.short, h.damaged, true⟩

/-- A flush whose capture holds no slot any longer is no longer pending (R106). -/
def State.flushDone (s : State) (i : StreamId) (c : ContextId) : State :=
  if s.holdsLines i c then s else s.onCapture i c fun k => { k with flushPending := false }

/-- A held line leaves the store as a long-only row of its capture (R100, R106). -/
def State.writeHeld (s : State) (h : HeldLine) : State :=
  match s.capture? h.stream h.context with
  | some k =>
    (({ s with pairing := s.pairing.erase h }).produceRow h.stream h.context
      (h.longRow k.request.top)).flushDone h.stream h.context
  | none => { s with pairing := s.pairing.erase h }

/-- Every held line of a capture is freed unwritten, and no flush is pending (R108, R109). -/
def State.releaseHeld (s : State) (i : StreamId) (c : ContextId) : State :=
  ({ s with pairing := s.pairing.filter fun h => !h.ownedBy i c }).onCapture i c
    fun k => { k with flushPending := false }

/-- The capture of a held line has a flush pending. -/
def State.flushWaits (s : State) (h : HeldLine) : Bool :=
  match s.capture? h.stream h.context with
  | some k => k.flushPending
  | none => false

/-- Held lines, oldest first, leave for as long as the buffer has room (R106, R107). -/
def flushLines (i : StreamId) : List HeldLine → State → State
  | [], s => s
  | h :: rest, s =>
    flushLines i rest (if h.stream = i && s.flushWaits h && s.hasRoom i then s.writeHeld h else s)

/-- A room notice of a stream: its pending captures' lines leave in arrival order (R107). -/
def State.flushStream (s : State) (i : StreamId) : State := flushLines i s.pairing s

/-- A capture has its flush pending. -/
def State.flushing (s : State) (i : StreamId) (c : ContextId) : Bool := (s.capture? i c).any (·.flushPending)

/-- The flush of a capture in the event that closes its frame: its own held lines, lowest line index first (R106).
DEDUCED (log entry 15), unsafe: behind an older capture whose flush is pending they wait for the next room notice, so
that every line of the older capture goes first (R107). -/
def State.flushCapture (s : State) (i : StreamId) (c : ContextId) : State :=
  if (List.finRange 2).any fun d => d ≠ c && s.flushing i d then s
  else flushLines i (s.pairing.filter (·.ownedBy i c)) s

/-! ## Long lines (R99, R100) -/

/-- A late line of a capture (R99, R103). -/
def State.lateLine (s : State) (i : StreamId) (c : ContextId) : State :=
  (s.onCounters i c fun n => { n with late := satInc n.late }).bump i fun n =>
    { n with linesLate := satInc n.linesLate }

/-- A line takes a free slot (R94). -/
def State.holdLine (s : State) (h : HeldLine) : State := { s with pairing := s.pairing ++ [h] }

/-- The oldest held line of a stream (R100). -/
def State.oldestHeld (s : State) (i : StreamId) : Option HeldLine := s.pairing.find? (·.stream = i)

/-- A full quota: the oldest held line is evicted if the buffer has room, and otherwise the arriving line
is lost (R100). With no line to evict, which a quota of at least 1 rules out, the line is lost too:
DESIGN CHOICE (log entry 14), safe. -/
def State.evictFor (s : State) (h : HeldLine) : State :=
  if s.hasRoom h.stream then
    match s.oldestHeld h.stream with
    | some old =>
      (((s.writeHeld old).onCapture old.stream old.context fun k =>
        { k with watermark := some old.index }).bump old.stream fun n =>
          { n with evictions := satInc n.evictions }).holdLine h
    | none => s.lostRow h.stream h.context
  else s.lostRow h.stream h.context

/-- An index is at or below a mark. -/
def atOrBelow (i : Nat) (mark : Option Nat) : Bool :=
  match mark with
  | some m => i ≤ m
  | none => false

/-- A LONG window line of a MERGE capture (R99). -/
def State.longLine (s : State) (k : Capture) (h : HeldLine) : State :=
  if atOrBelow h.index k.shortHigh then s.lateLine h.stream h.context
  else if s.heldCount h.stream < quotaOf s.streams[h.stream].active then s.holdLine h
  else s.evictFor h

/-! ## Short lines (R101, R102, R103) -/

/-- A pixel times the merge ratio, saturating (R102, R4). -/
def scalePixel (v : Pixel) (ratio : Nat) : Pixel := BitVec.ofNat 16 (min (v.toNat * ratio) 65535)

/-- The output value of a merged column (R102). -/
def mergePixel (knee ratio : Nat) (l v : Pixel) : Pixel := if l.toNat < knee then l else scalePixel v ratio

/-- A SHORT window line of a MERGE capture: merged with its held partner, late, or written alone. -/
def State.shortLine (s : State) (k : Capture) (h : HeldLine) : State :=
  let s := s.onCapture h.stream h.context fun k => { k with shortHigh := some h.index }
  let row := h.index - k.request.top
  match s.pairing.find? fun l => l.ownedBy h.stream h.context && l.index == h.index with
  | some l =>
    ({ s with pairing := s.pairing.erase l }).produceRow h.stream h.context
      ⟨.one, row, List.zipWith (mergePixel k.profile.knee k.profile.mergeRatio) l.pixels h.pixels,
        l.short || h.short, l.damaged || h.damaged, false⟩
  | none =>
    if atOrBelow h.index k.watermark then s.lateLine h.stream h.context
    else s.produceRow h.stream h.context
      ⟨.one, row, h.pixels.map (scalePixel · k.profile.mergeRatio), h.short, h.damaged, true⟩

/-! ## A line of a bound frame (R75, R76, R86) -/

/-- An accepted line of the CAPTURING capture goes through the Pixel Path. -/
def State.pixelPath (s : State) (i : StreamId) (c : ContextId) (k : Capture) (line : Nat) (e : Exposure)
    (px : List Pixel) (damaged : Bool) : State :=
  let q := k.request
  let px := if q.repair then repairLine k.defects line px else px
  let s := s.onCapture i c fun k => { k with blacks := k.blacksAfter line e px }
  let out := k.subtracted line e px
  if q.top ≤ line && line < q.top + q.rows then
    let cropped := crop q.left q.cols out
    let short := decide (px.length < q.left + q.cols)
    match q.assembly, e with
    | .merge, .long => s.longLine k ⟨i, c, line, cropped, damaged, short⟩
    | .merge, .short => s.shortLine k ⟨i, c, line, cropped, damaged, short⟩
    | .merge, .single => s
    | .split, .short => s.produceRow i c ⟨.two, line - q.top, cropped, short, damaged, false⟩
    | .split, _ => s.produceRow i c ⟨.one, line - q.top, cropped, short, damaged, false⟩
    | .plain, _ => s.produceRow i c ⟨.one, line - q.top, cropped, short, damaged, false⟩
  else s

end Sys2Proof.Machine
end

