-- ==== Sys2Proof/Machine/Capture.lean ====
section
/-! DEFINITION. A capture from its binding to its finish: leaving CAPTURING, write faults, aborts, the row
accounting of an issued burst, and the finish (sections 1.4 to 1.6, 2.6, 2.7). -/

namespace Sys2Proof.Machine

/-! ## Binding (R17) -/

/-- A black measurement at binding (R82). -/
def Black.start : Black := ⟨0, 0, none⟩

/-- The capture of a request bound to a frame (R17, R82, R98, R111). -/
def Request.bindTo (q : Request) (f : Frame) (p : Profile) (table : List DefectEntry) : Capture where
  phase := .capturing
  request := q
  frame := f.number
  startTime := f.startTime
  unsettled := f.unsettled
  profile := p
  defects := table
  counters := .zero
  causes := ⟨false, false, false, false⟩
  outstanding := 0
  blacks := ⟨.start, .start, .start⟩
  shortHigh := none
  watermark := none
  flushPending := false
  rowsWritten := []
  rowsShort := []
  rowsDamaged := []
  rowsLong := []
  rowsShortExposure := []

/-! ## Leaving CAPTURING (R18, R19) -/

/-- A capture leaves CAPTURING, if it is there, with the causes it records; the frame it was bound to has
no capture any longer (R18, R43). -/
def State.leaveCapturing (s : State) (i : StreamId) (c : ContextId) (f : Causes → Causes) : State :=
  (s.onCapture i c fun k => { k with phase := .flushing, causes := f k.causes }).onStream i fun x =>
    { x with frame := x.frame.map fun r => if r.bound = some c then { r with bound := none } else r }

/-- A capture's lines leave the Line Output Buffer with their unissued bytes (R91). -/
def State.dropLines (s : State) (i : StreamId) (c : ContextId) : State :=
  s.onStream i fun x => { x with buffer := x.buffer.filter (·.context ≠ c) }

/-- A capture records ABORTED: held lines released, buffered lines dropped (R52, R19). -/
def State.abortCapture (s : State) (i : StreamId) (c : ContextId) : State :=
  match s.capture? i c with
  | some _ => ((s.leaveCapturing i c fun k => { k with aborted := true }).releaseHeld i c).dropLines i c
  | none => s

/-- An error response or a timeout on one of a capture's writes (R53, R19, R186), which releases its held lines (R109) and
drops its buffered lines (R91). DESIGN CHOICE (log entry 23), unsafe: in FAULTED too, where R201 has owners act on their
responses, though R110 says that held slots and pending flushes stay as they are there, and R92 that buffered lines stay
where they are and their captures FLUSHING until a reset. -/
def State.writeFault (s : State) (i : StreamId) (c : ContextId) : State :=
  match s.capture? i c with
  | some _ =>
    (((s.onCapture i c fun k => { k with outstanding := k.outstanding - 1 }).leaveCapturing i c
      fun k => { k with writeFault := true }).releaseHeld i c).dropLines i c
  | none => s

/-! ## Frame close (R46) -/

/-- How a frame closes: its status cause and what becomes of the held lines (section 2.6). -/
inductive Close
  | normal | truncated | linkLost
  deriving DecidableEq, Repr

/-- The cause a close records (R18). -/
def Close.cause : Close → Causes → Causes
  | .normal, k => k
  | .truncated, k => { k with truncated := true }
  | .linkLost, k => { k with linkLost := true }

/-- The window rows of a SPLIT capture with exactly one exposure present (R111). -/
def Capture.oneExposure (k : Capture) : Nat :=
  (k.rowsLong.filter fun r => !k.rowsShortExposure.contains r).length
    + (k.rowsShortExposure.filter fun r => !k.rowsLong.contains r).length

/-- Rows counted unpaired, in the capture and in its stream (R55, R104, R111). -/
def State.unpairedRows (s : State) (i : StreamId) (c : ContextId) (n : Nat) : State :=
  (s.onCounters i c fun r => { r with unpaired := satIncBy n r.unpaired }).bump i fun t =>
    { t with linesUnpaired := satIncBy n t.linesUnpaired }

/-- Held lines at a close: flushed long-only, or released unwritten (R106, R108). -/
def State.closeHeld (s : State) (i : StreamId) (c : ContextId) : Close → State
  | .linkLost => s.releaseHeld i c
  | .normal | .truncated =>
    (s.onCapture i c fun k => { k with flushPending := s.holdsLines i c }).flushCapture i c

/-- The CAPTURING capture of a frame that closes (R46, R18, R106, R108, R111). -/
def State.closeCapture (s : State) (i : StreamId) (c : ContextId) (close : Close) : State :=
  match s.capture? i c with
  | some k =>
    let s := s.leaveCapturing i c close.cause
    let s := if k.request.assembly = .split then s.unpairedRows i c k.oneExposure else s
    s.closeHeld i c close
  | none => s

/-- The frame in progress closes, if there is one: its record ends, its timer stops, and every close but
the normal one is counted (R46). -/
def State.closeFrame (s : State) (i : StreamId) (close : Close) : State :=
  match s.streams[i].frame with
  | none => s
  | some f =>
    let s := s.onStream i fun x => { x with frame := none, gapTimer := none }
    let s := if close = .normal then s
      else s.bump i fun n => { n with framesTruncated := satInc n.framesTruncated }
    match f.bound with
    | some c => s.closeCapture i c close
    | none => s

/-! ## Aborts (R52, R168) -/

/-- Every request of a prefetch list finishes ABORTED, in list order, and the list is empty. The groups of
its members break afterwards (R16, R52, R124). -/
def State.abortList (s : State) (i : StreamId) : State :=
  (s.streams[i].prefetch.foldl (fun s q => s.record i q (q.unboundReport .aborted)) s).onStream i fun x =>
    { x with prefetch := [], deadline := none }

/-- Both captures of a stream are aborted (R52). -/
def State.abortCaptures (s : State) (i : StreamId) : State := (s.abortCapture i 0).abortCapture i 1

/-! ## Row accounting (R21, R90, R104) -/

/-- A window row counted once in a counter. -/
def countRow (rows : List Nat) (r : Nat) (counter : Half) : Half := if rows.contains r then counter else satInc counter

/-- The first burst of a line makes its row written and takes its markings (R21, R90). -/
def Capture.takeLine (k : Capture) (l : OutputLine) : Capture :=
  let n := k.counters
  { k with
    rowsWritten := insertRow l.row k.rowsWritten
    rowsShort := if l.short then insertRow l.row k.rowsShort else k.rowsShort
    rowsDamaged := if l.damaged then insertRow l.row k.rowsDamaged else k.rowsDamaged
    counters := { n with
      written := countRow k.rowsWritten l.row n.written
      short := if l.short then countRow k.rowsShort l.row n.short else n.short
      damaged := if l.damaged then countRow k.rowsDamaged l.row n.damaged else n.damaged
      unpaired := if l.unpaired then satInc n.unpaired else n.unpaired } }

/-- The row accounting of a line whose first burst is issued, in the capture and its stream. -/
def State.accountLine (s : State) (i : StreamId) (l : OutputLine) : State :=
  let s := s.onCapture i l.context (·.takeLine l)
  if l.unpaired then s.bump i fun n => { n with linesUnpaired := satInc n.linesUnpaired } else s

/-! ## Finishing (R20) -/

/-- A FLUSHING capture that holds no line, has no line buffered and no write outstanding (R20). -/
def State.drained (s : State) (i : StreamId) (c : ContextId) : Bool :=
  match s.capture? i c with
  | some k => k.phase = .flushing && k.outstanding = 0 && !s.holdsLines i c
      && s.streams[i].buffer.all (·.context ≠ c)
  | none => false

/-- The report of a capture that has finished (R20, R24). -/
def Capture.report (k : Capture) : Report :=
  ⟨k.status, k.request.tag, true, k.unsettled, k.frame, k.startTime, k.counters, 0⟩

/-- A capture finished ABORTED counts towards the abort of its stream (R169). -/
def State.countAborted (s : State) (i : StreamId) (n : Nat) : State :=
  { s with admin := { s.admin with
    abort := s.admin.abort.map fun a => if a.stream = i then { a with count := a.count + n } else a } }

/-- A drained capture becomes FINISHED: its outcome goes to its entry, its context is free, its group is
told, and an abort of its stream counts it (R20, R121, R169). Any other capture is unchanged. -/
def State.finishCapture (s : State) (i : StreamId) (c : ContextId) : State :=
  match s.drained i c, s.capture? i c with
  | true, some k =>
    let g := s.memberOf i k.request
    let s := s.record i k.request k.report
    let s := s.onStream i fun x => { x with contexts := x.contexts.set c none }
    let s := if k.status = .aborted then s.countAborted i 1 else s
    s.memberFinished g k.status
  | _, _ => s

/-- Every drained capture becomes FINISHED (R20). DESIGN CHOICE (log entry 25), unsafe: the manual gives no order among
captures that one event drains, and the model takes them from stream 0 to stream 3, context 0 before context 1, each
finish acting on its group (R121) before the next. -/
def State.finishCaptures (s : State) : State :=
  (List.finRange 4).foldl (fun s i => (s.finishCapture i 0).finishCapture i 1) s

end Sys2Proof.Machine
end

