-- ==== Sys2Proof/Machine/Frame.lean ====
section
/-! DEFINITION. Frames at the Stream Controller: starts, the offer along the prefetch list, lines and ends
(chapter 2). -/

namespace Sys2Proof.Machine

/-! ## Binding-time checks (R13) and the ability to bind (R35) -/

/-- The binding-time checks of a CAPTURE against a profile (R13); `true` when they pass. -/
def Request.suits (q : Request) (p : Profile) : Bool :=
  (match q.assembly with
    | .plain => p.layout = .single
    | .merge | .split => p.layout = .paired)
  && q.left + q.cols ≤ p.lineLength && q.top + q.rows ≤ p.frameHeight
  && (!q.subtract || p.referenceRows ≤ q.top)

/-- The head can bind: a context is free, and the frame is settled or unsettled frames are accepted (R35). -/
def Request.canBind (q : Request) (x : StreamState) (f : Frame) : Bool :=
  x.freeContext.isSome && (!f.unsettled || q.acceptUnsettled)

/-- The head binds the frame in progress: it leaves the list and takes a context (R17). -/
def State.bindHead (s : State) (i : StreamId) : State :=
  let x := s.streams[i]
  match x.prefetch, x.frame, x.active, x.freeContext with
  | q :: rest, some f, some p, some c =>
    s.onStream i fun x => { x with
      prefetch := rest
      deadline := none
      contexts := x.contexts.set c (some (q.bindTo f p x.activeDefects))
      frame := some { f with bound := some c } }
  | _, _, _, _ => s

/-! ## The frame offer (R36 to R39) -/

/-- What the judgement of the head against the frame gives. -/
inductive Judgement
  /-- The head takes the frame, and the offer ends. -/
  | binds
  /-- The head waits, and the offer ends. -/
  | waits
  /-- The head finishes with this status, and the offer goes on with the next head. -/
  | finishes (status : Status)
  deriving DecidableEq, Repr

/-- The judgement of a head CAPTURE, and the state after a group claim (R36, R37, R38, R39). -/
def State.judgeHead (s : State) (i : StreamId) (q : Request) (f : Frame) (p : Profile) : Judgement × State :=
  let can := q.canBind s.streams[i] f
  if !q.suits p then (.finishes .invalid, s)
  else match q.group with
  | some g =>
    match s.claim g i q f.number can with
    | (.bind, s) => (.binds, s)
    | (.wait, s) => (.waits, s)
    | (.missed, s) => (.finishes .missed, s)
  | none =>
    match q.selector with
    | .next => if can then (.binds, s) else (.waits, s)
    | .numbered =>
      match frameOrder f.number q.number with
      | .equal => if can then (.binds, s) else (.finishes .missed, s)
      | .ahead => (.finishes .missed, s)
      | .behind => (.waits, s)

/-- The offer of the frame in progress; `true` when a capture binds it. A binding makes the next request
head after the offer has ended (R36). The first argument bounds the heads judged: the list's length does. -/
def offer (i : StreamId) : Nat → State → State × Bool
  | 0, s => (s, false)
  | n + 1, s =>
    match s.streams[i].prefetch, s.streams[i].frame, s.streams[i].active with
    | q :: _, some f, some p =>
      match s.judgeHead i q f p with
      | (.binds, s) => ((s.bindHead i).newHead i, true)
      | (.waits, s) => (s, false)
      | (.finishes status, s) => offer i n (s.finishHead i status)
    | _, _, _ => (s, false)

/-! ## Frame start (R34, R31) -/

/-- A FRAME_START whose profile id is the staged profile's activates it (R30). -/
def StreamState.activate (x : StreamState) (id : BitVec 4) : StreamState :=
  match x.staged with
  | some p => if p.id = id then { x with active := some p, staged := none, settle := p.settleFrames } else x
  | none => x

/-- A staged defect table becomes active (R79). -/
def StreamState.activateDefects (x : StreamState) : StreamState :=
  match x.stagedDefects with
  | some t => { x with activeDefects := t, stagedDefects := none }
  | none => x

/-- The frame in progress begins, marked by the settle count (R32, R34). -/
def StreamState.beginFrame (x : StreamState) (number : Half) (now : Word) : StreamState :=
  { x with
    settle := x.settle - 1
    frame := some ⟨number, now, decide (0 < x.settle), none, none, none, none⟩
    gapTimer := some now }

/-- The profile id is the staged or the active profile's (R34, R31). -/
def StreamState.knows (x : StreamState) (id : BitVec 4) : Bool :=
  x.staged.any (·.id = id) || x.active.any (·.id = id)

/-- An accepted FRAME_START: close, activate, mark, begin and offer, in this order (R34). -/
def State.acceptFrame (s : State) (i : StreamId) (number : Half) (id : BitVec 4) : State :=
  let s := s.closeFrame i .truncated
  let s := s.onStream i fun x => ((x.activate id).activateDefects).beginFrame number s.timeBase
  let s := s.bump i fun n => { n with framesSeen := satInc n.framesSeen }
  match offer i s.streams[i].prefetch.length s with
  | (s, true) => s.bump i fun n => { n with framesBound := satInc n.framesBound }
  | (s, false) => s.bump i fun n => { n with framesUnclaimed := satInc n.framesUnclaimed }

/-- A foreign FRAME_START closes the frame in progress and is counted (R31, R48). -/
def State.foreignFrame (s : State) (i : StreamId) : State :=
  (s.closeFrame i .truncated).bump i fun n => { n with framesForeign := satInc n.framesForeign }

/-- A FRAME_START at the Stream Controller; it does not arrive in DISABLED or UNLINKED (R34). -/
def State.takeFrameStart (s : State) (i : StreamId) (number : Half) (id : BitVec 4) : State :=
  match s.streams[i].status with
  | .betweenFrames | .inFrame =>
    if s.streams[i].knows id then s.acceptFrame i number id else s.foreignFrame i
  | .disabled | .unlinked => s

/-! ## Lines (R41 to R44) -/

/-- The last accepted line index of an exposure. -/
def Frame.last (f : Frame) : Exposure → Option Nat
  | .single => f.lastSingle
  | .long => f.lastLong
  | .short => f.lastShort

/-- An accepted line sets the last index of its exposure (R41). -/
def Frame.accept (f : Frame) (line : Nat) : Exposure → Frame
  | .single => { f with lastSingle := some line }
  | .long => { f with lastLong := some line }
  | .short => { f with lastShort := some line }

/-- An exposure fits a layout (R41). -/
def exposureFits : Exposure → Layout → Bool
  | .single, .single => true
  | .long, .paired => true
  | .short, .paired => true
  | .single, .paired => false
  | .long, .single => false
  | .short, .single => false

/-- The acceptance of a LINE in a frame (R41). -/
def Frame.accepts (f : Frame) (p : Profile) (line : Nat) (e : Exposure) : Bool :=
  exposureFits e p.layout && line < p.frameHeight &&
    (match f.last e with
      | some n => n < line
      | none => true)

/-- A stray packet, or a packet out of frame, is discarded and counted (R42, R44, R47). -/
def State.stray (s : State) (i : StreamId) : State :=
  s.bump i fun n => { n with packetsStray := satInc n.packetsStray }

/-- An accepted LINE: index, timer and count, and the Pixel Path for a bound frame (R41, R43, R45). -/
def State.acceptLine (s : State) (i : StreamId) (f : Frame) (line : Nat) (e : Exposure) (px : List Pixel)
    (damaged : Bool) : State :=
  let s := s.onStream i fun x => { x with frame := some (f.accept line e), gapTimer := some s.timeBase }
  let s := if damaged then s.bump i fun n => { n with linesDamaged := satInc n.linesDamaged } else s
  match f.bound with
  | some c =>
    match s.capture? i c with
    | some k => s.pixelPath i c k line e px damaged
    | none => s
  | none => s

/-- A LINE at the Stream Controller. Pixels beyond the active profile's line length do not reach it: the
lane drops them (R41, R65). -/
def State.takeLine (s : State) (i : StreamId) (line : Nat) (e : Exposure) (px : List Pixel)
    (damaged : Bool) : State :=
  let x := s.streams[i]
  match x.status with
  | .inFrame =>
    match x.frame, x.active with
    | some f, some p =>
      if f.accepts p line e then s.acceptLine i f line e (px.take p.lineLength) damaged else s.stray i
    | _, _ => s
  | .betweenFrames => s.stray i
  | .disabled | .unlinked => s

/-! ## Frame end (R47) -/

/-- A FRAME_END at the Stream Controller. -/
def State.takeFrameEnd (s : State) (i : StreamId) (number lineCount : Half) : State :=
  let x := s.streams[i]
  match x.status with
  | .inFrame =>
    match x.frame with
    | some f =>
      if f.number = number then
        (s.closeFrame i .normal).onStream i fun x => { x with lastLineCount := lineCount }
      else s.stray i
    | none => s
  | .betweenFrames => s.stray i
  | .disabled | .unlinked => s

end Sys2Proof.Machine
end

