-- ==== Sys2Proof/Machine/Link.lean ====
section
/-! DEFINITION. The Lane Receiver: what each class of word does in each lane state and receive phase, the
items a lane hands its stream, and how the stream takes them (chapter 3, R27). -/

namespace Sys2Proof.Machine

/-- What a lane hands its stream (R73); the lane off event is `State.laneOff`. -/
inductive LaneItem
  | frameStart (number : Half) (profileId : BitVec 4)
  | line (index : BitVec 14) (exposure : Exposure) (pixels : List Pixel) (damaged : Bool)
  | frameEnd (number lineCount : Half)
  | headerError
  | linkUp
  | retrain
  | laneLoss
  deriving DecidableEq, Repr

/-- A lane in SEARCH with no training run (R60, R66). -/
def Lane.searching : Lane := ⟨.search, 0, 0, .none⟩

/-- A header error: the count rises, and at 4 the lane is lost (R66). -/
def Lane.headerError (l : Lane) (phase : ReceivePhase) : Lane × List LaneItem :=
  if Config.headerErrorLimit ≤ l.headerErrors + 1 then (.searching, [.headerError, .laneLoss])
  else ({ l with headerErrors := l.headerErrors + 1, phase := phase }, [.headerError])

/-- A good header: the count is 0 again; a FRAME_START or FRAME_END is delivered, a LINE begins its
payload, keeping at most the active profile's line length (R64, R65). -/
def Lane.goodHeader (l : Lane) (lineLength : Nat) : Header → Lane × List LaneItem
  | .frameStart n p => ({ l with headerErrors := 0, phase := .gap }, [.frameStart n p])
  | .frameEnd n c => ({ l with headerErrors := 0, phase := .gap }, [.frameEnd n c])
  | .line i e p =>
    ({ l with headerErrors := 0, phase := .payload ⟨i, e, min p lineLength, p, [], payloadStart⟩ }, [])

/-- A DATA word in HEADER; the fourth is the header check word (R63). -/
def Lane.headerWord (l : Lane) (lineLength : Nat) (words : List Half) (v : Half) : Lane × List LaneItem :=
  match words with
  | [w0, w1, w2] =>
    match judgeHeader w0 w1 w2 v with
    | some h => l.goodHeader lineLength h
    | none => l.headerError .discard
  | _ => ({ l with phase := .header (words ++ [v]) }, [])

/-- A DATA word in PAYLOAD: a pixel word, or the check word that delivers the line (R67, R68). -/
def Lane.payloadWord (l : Lane) (p : Payload) (v : Half) : Lane × List LaneItem :=
  if p.remaining = 0 then
    ({ l with phase := .gap }, [.line p.index p.exposure p.kept (decide (v ≠ p.check))])
  else
    ({ l with phase := .payload { p with
        remaining := p.remaining - 1
        kept := if p.kept.length < p.keep then p.kept ++ [v] else p.kept
        check := payloadStep p.check v } }, [])

/-- A word taken in RUN (section 3.4). -/
def Lane.takeInRun (l : Lane) (lineLength : Nat) : WordClass → Lane × List LaneItem
  | .train => (⟨.aligned, 0, 0, .none⟩, [.retrain])
  | .illegal => l.headerError .discard
  | .idle =>
    match l.phase with
    | .header _ => l.headerError .gap
    | .payload _ => ({ l with phase := .gap }, [])
    | .discard => ({ l with phase := .gap }, [])
    | .gap => (l, [])
    | .none => (l, [])
  | .data v =>
    match l.phase with
    | .header words => l.headerWord lineLength words v
    | .payload p => l.payloadWord p v
    | .discard => (l, [])
    | .gap => ({ l with phase := .header [v] }, [])
    | .none => (l, [])

/-- What a word does in each lane state (R59 to R62). -/
def Lane.take (l : Lane) (lineLength : Nat) (w : WordClass) : Lane × List LaneItem :=
  match l.state with
  | .off => (l, [])
  | .search =>
    match w with
    | .train =>
      if Config.trainingRun ≤ l.runCount + 1 then (⟨.aligned, 0, 0, .none⟩, [])
      else ({ l with runCount := l.runCount + 1 }, [])
    | .idle | .data _ | .illegal => ({ l with runCount := 0 }, [])
  | .aligned =>
    match w with
    | .idle | .train => (l, [])
    | .illegal => (.searching, [])
    | .data v => (⟨.run, 0, 0, .header [v]⟩, [.linkUp])
  | .run => l.takeInRun lineLength w

/-! ## The stream takes what its lane hands it (R27) -/

/-- Link up: the relink raise of R33. -/
def StreamState.linkUp (x : StreamState) : StreamState :=
  if x.relink then { x with settle := max x.settle 1, relink := false } else x

/-- A stream takes one item of its lane (R27, R73). -/
def State.takeItem (i : StreamId) (s : State) : LaneItem → State
  | .frameStart n p => s.takeFrameStart i n p
  | .line n e px d => s.takeLine i n.toNat e px d
  | .frameEnd n c => s.takeFrameEnd i n c
  | .headerError => s.bump i fun n => { n with headerErrors := satInc n.headerErrors }
  | .linkUp => s.onStream i StreamState.linkUp
  | .retrain => s.closeFrame i .truncated
  | .laneLoss =>
    (((s.closeFrame i .linkLost).onStream i fun x => { x with relink := true }).bump i fun n =>
      { n with laneLosses := satInc n.laneLosses }).raiseIrq irqLane

/-- The line length of a stream's active profile; a lane in RUN has one (R65). -/
def StreamState.lineLength (x : StreamState) : Nat :=
  match x.active with
  | some p => p.lineLength
  | none => 0

/-- A word arrives on a lane: the lane's own change and the items it hands over. -/
def State.laneStep (s : State) (i : StreamId) (w : WordClass) : State × List LaneItem :=
  let (l, items) := s.streams[i].lane.take s.streams[i].lineLength w
  (s.onStream i fun x => { x with lane := l }, items)

/-! ## Lanes and the device (R59, R51) -/

/-- A lane goes to OFF; one that was in RUN gives its stream the lane off event (R59, R51). -/
def State.laneOff (s : State) (i : StreamId) : State :=
  let was := s.streams[i].lane.state
  let s := s.onStream i fun x => { x with lane := .off }
  if was = .run then (s.closeFrame i .linkLost).onStream i fun x => { x with relink := true } else s

/-- Every lane goes to OFF, because the device has left RUNNING (R59). -/
def State.lanesOff (s : State) : State := (List.finRange 4).foldl State.laneOff s

/-- A lane whose enable is on leaves OFF for SEARCH when the device is RUNNING (R59). -/
def State.laneOn (s : State) (i : StreamId) : State :=
  if s.device = .running && s.streams[i].laneEnable && s.streams[i].lane.state = .off then
    s.onStream i fun x => { x with lane := .searching }
  else s

/-- Every enabled lane leaves OFF, because the device has entered RUNNING (R59). -/
def State.lanesOn (s : State) : State := (List.finRange 4).foldl State.laneOn s

end Sys2Proof.Machine
end

