-- ==== Sys2Proof/Machine/Device.lean ====
section
/-! DEFINITION. The device states: faults, the entry to STOPPING, and the values at the end of a soft reset
and of an orderly stop (chapter 10). -/

namespace Sys2Proof.Machine

/-! ## Faults (R200) -/

/-- An unreportable failure: the device enters FAULTED with its cause, FAULT is set and every lane goes to
OFF. In FAULTED already, nothing changes (R200). -/
def State.enterFaulted (s : State) (cause : FaultCause) : State :=
  if s.device = .faulted then s
  else ({ s with device := .faulted, cause := cause }.raiseIrq irqFault).lanesOff

/-! ## Resets (R57, R74, R93, R112, R131, R154, R175, R192, R206) -/

/-- Every piece of state at its reset value. DESIGN CHOICE (log entry 16), safe: the model's own queue of commands
stays. -/
def State.toReset (s : State) : State := { State.reset with pending := s.pending }

/-- The end of an orderly stop: as a reset, but the SETUP address and IRQ_ENABLE are kept and STOPPED is
set (R197, R206). -/
def State.toStopped (s : State) : State :=
  { s.toReset with setupAddress := s.setupAddress }.withIrq irqStopped s.irqEnable

/-- A stop completes when every holding entry is FREE and the Memory Port is idle (R197). -/
def State.stopEnds (s : State) : Bool := s.device = .stopping && s.listEmpty && s.portIdle

/-- A soft reset ends when the Memory Port is idle (R198). -/
def State.resetEnds (s : State) : Bool := s.device = .resetting && s.portIdle

/-- A stop or a soft reset that can end does, in the same event (R197, R198). -/
def State.endings (s : State) : State :=
  if s.stopEnds then s.toStopped else if s.resetEnds then s.toReset else s

/-! ## The entry to STOPPING (R196) -/

/-- The waiting admin command finishes ABORTED, not started (R158). -/
def State.abortWaiting (s : State) : State :=
  match s.admin.waiting with
  | some cmd =>
    { s.entryReady cmd.entry (.unbound .aborted cmd.tag 0) true with admin := { s.admin with waiting := none } }
  | none => s

/-- Every stream is treated as by the beginning of an abort, and every group in OPEN or FIXED breaks
(R52, R124). -/
def State.abortEverything (s : State) : State :=
  let s := (List.finRange 4).foldl State.abortList s
  let s := (List.finRange 4).foldl State.abortCaptures s
  (List.finRange 8).foldl State.breakGroup s

/-- The device leaves RUNNING for STOPPING (R196). DESIGN CHOICE (log entry 9), unsafe: the blocks take the entry in
this order. -/
def State.enterStopping (s : State) : State :=
  ({ s with device := .stopping }.lanesOff.abortWaiting).abortEverything

/-! ## The soft reset (R198) -/

/-- A QUARANTINED entry returns to ISSUED with no owner, and an ISSUED one stays (R191). -/
def TrackerEntry.unquarantined : TrackerEntry → TrackerEntry
  | .quarantined t => .issued { t with owner := none }
  | .issued t => .issued t
  | .free => .free

/-- A soft reset begins: RESETTING, lanes off, and no entry quarantined (R198, R191). -/
def State.beginReset (s : State) : State :=
  { s with
    device := .resetting
    softReset := true
    reads := s.reads.map TrackerEntry.unquarantined
    writes := s.writes.map TrackerEntry.unquarantined
    quarantine := 0 }.lanesOff

end Sys2Proof.Machine
end

