-- ==== Sys2Proof/Machine/Admin.lean ====
section
/-! DEFINITION. The Admin Unit: taking, starting and completing commands, and what each of the nine does
(chapter 8). -/

namespace Sys2Proof.Machine

/-! ## Completion (R155, R157) -/

/-- The command in execution completes: its outcome goes to its holding entry, which is READY and counted,
and the unit has no command in execution (R155, R144). -/
def State.complete (s : State) (status : Status) (detail : Word) : State :=
  match s.admin.executing with
  | some cmd =>
    { s.entryReady cmd.entry (.unbound status cmd.tag detail) true with
      admin := { s.admin with executing := none, load := none, abort := none, snapshot := none } }
  | none => s

/-! ## Rings -/

/-- CREATE_RING (R159). -/
def State.runCreateRing (s : State) (i : StreamId) (base : Addr) (log : Nat) : State :=
  let r := ringOfStream i
  if s.rings[r].state = .absent && 2 ≤ log && log ≤ 10 && base.toNat % 64 == 0
      && base.toNat + 64 * 2 ^ log ≤ 2 ^ 64 then
    (s.onRing r fun _ => ⟨.active, base, 2 ^ log, 0, 0, false⟩).complete .ok 0
  else s.complete .invalid 0

/-- DELETE_RING (R160). -/
def State.runDeleteRing (s : State) (i : StreamId) : State :=
  let r := ringOfStream i
  if s.rings[r].state = .absent then s.complete .invalid 0
  else if (entriesOf r).any fun e => s.holding[e].state != .free then s.complete .busy 0
  else ((s.onRing r fun _ => .absent).breakGroupsOf i).complete .ok 0

/-- RESUME_STREAM (R161). -/
def State.runResumeStream (s : State) (i : StreamId) (skip : Bool) : State :=
  let r := ringOfStream i
  let ring := s.rings[r]
  if ring.state != .halted then s.complete .invalid 0
  else if skip then
    (s.onRing r fun x => { x with state := .active, fetched := x.producer }).complete .ok
      (BitVec.ofNat 32 ring.pendingCount)
  else (s.onRing r fun x => { x with state := .active }).complete .ok 0

/-! ## CONFIGURE_STREAM (R162, R163) -/

/-- An accepted profile becomes active if there is none, and is staged otherwise (R28). -/
def StreamState.takeProfile (x : StreamState) (p : Profile) : StreamState :=
  match x.active with
  | none => { x with active := some p, settle := p.settleFrames }
  | some _ => { x with staged := some p }

/-- The lane enable changes, with its effect on the lane (R29). -/
def State.setLaneEnable (s : State) (i : StreamId) (on : Bool) : State :=
  if s.streams[i].laneEnable = on then s
  else
    let s := s.onStream i fun x => { x with laneEnable := on }
    if on then s.laneOn i else s.laneOff i

/-- CONFIGURE_STREAM (R162, R163). -/
def State.runConfigureStream (s : State) (i : StreamId) (on : Bool) (f : ProfileFields) : State :=
  match profileOf f with
  | none => s.complete .invalid 0
  | some p =>
    if s.quotaFits i p.quota then
      ((s.onStream i fun x => x.takeProfile p).setLaneEnable i on).complete .ok 0
    else s.complete .noResource 0

/-! ## LOAD_DEFECTS (R164 to R167) -/

/-- A table is staged (R78). -/
def State.stageDefects (s : State) (i : StreamId) (t : List DefectEntry) : State :=
  s.onStream i fun x => { x with stagedDefects := some t }

/-- LOAD_DEFECTS (R164). -/
def State.runLoadDefects (s : State) (i : StreamId) (list : Addr) (count : Nat) : State :=
  if count ≤ 1024 && list.toNat % 256 == 0 && list.toNat + 256 * burstsOf count ≤ 2 ^ 64 then
    if count = 0 then (s.stageDefects i []).complete .ok 0
    else { s with admin := { s.admin with
      load := some ⟨i, list, count, burstsOf count, 0, 0, 0, false, []⟩ } }
  else s.complete .invalid 0

/-- Change the load in execution. -/
def State.onLoad (s : State) (f : Load → Load) : State := { s with admin := { s.admin with load := s.admin.load.map f } }

/-- The 256 bytes a landed burst fills in the load buffer (R165). DESIGN CHOICE (log entry 20), unsafe: where the answer
is shorter its missing bytes are 0, and where it is longer the bytes past 256 are disregarded. -/
def burstBytes (d : List Byte) : List Byte := (d ++ List.replicate 256 0).take 256

/-- The load buffer as one list of bytes, burst `j` at offset 256 × `j` (R165). -/
def Load.bytes (l : Load) : List Byte :=
  (List.range l.bursts).flatMap fun j => burstBytes ((l.buffer.find? (·.1 = j)).elim [] (·.2))

/-- The list is validated and staged, or the load completes TABLE_ERROR (R166). -/
def State.validateLoad (s : State) (l : Load) : State :=
  match readDefects l.bytes l.count l.bursts with
  | some t => (s.stageDefects l.stream t).complete .ok (BitVec.ofNat 32 l.count)
  | none => s.complete .tableError 0

/-- A burst lands: it is placed in the buffer, or discarded after a failure (R165, R166, R167). -/
def State.burstLands (s : State) (j : Nat) (data : List Byte) : State :=
  match s.admin.load with
  | none => s
  | some l =>
    let l := { l with outstanding := l.outstanding - 1 }
    if l.failed then
      let s := s.onLoad fun _ => l
      if l.outstanding = 0 then s.complete .readFault 0 else s
    else
      let l := { l with landed := l.landed + 1, buffer := l.buffer ++ [(j, data)] }
      let s := s.onLoad fun _ => l
      if l.landed = l.bursts then s.validateLoad l else s

/-- A burst fails: load failed is set, and the load completes READ_FAULT once no read is outstanding (R167). -/
def State.burstFails (s : State) : State :=
  match s.admin.load with
  | none => s
  | some l =>
    let l := { l with outstanding := l.outstanding - 1, failed := true }
    let s := s.onLoad fun _ => l
    if l.outstanding = 0 then s.complete .readFault 0 else s

/-! ## ABORT_STREAM (R168, R169) -/

/-- ABORT_STREAM begins; it completes in `conclude` once both contexts are free (R168, R169). -/
def State.runAbortStream (s : State) (i : StreamId) : State :=
  let r := ringOfStream i
  if s.rings[r].state = .absent then s.complete .invalid 0
  else
    let s := s.onRing r fun x => { x with state := .halted }
    let s := { s with admin := { s.admin with abort := some ⟨i, s.streams[i].prefetch.length⟩ } }
    ((s.abortList i).abortCaptures i).breakGroupsOf i

/-- The abort completes OK, with its count, once both contexts of its stream are free (R169). -/
def State.abortEnds (s : State) : State :=
  match s.admin.abort with
  | some a =>
    if (s.capture? a.stream 0).isNone && (s.capture? a.stream 1).isNone then
      s.complete .ok (BitVec.ofNat 32 a.count)
    else s
  | none => s

/-! ## Groups (R171, R172) -/

/-- The streams a mask byte names. -/
def maskStreams (mask : Byte) : Vector Bool 4 := #v[mask.getLsbD 0, mask.getLsbD 1, mask.getLsbD 2, mask.getLsbD 3]

/-- The mask names at least two streams and none beyond stream 3 (R114). -/
def maskGood (mask : Byte) : Bool :=
  mask.toNat < 16 && 2 ≤ ((List.finRange 4).filter fun i => (maskStreams mask)[i]).length

/-- Every ring of a mask is ACTIVE (R114). -/
def State.ringsActive (s : State) (mask : Byte) : Bool :=
  (List.finRange 4).all fun i => !(maskStreams mask)[i] || s.rings[ringOfStream i].state = .active

/-- OPEN_GROUP (R171, R114). -/
def State.runOpenGroup (s : State) (g : GroupId) (mask : Byte) (timeout : Nat) : State :=
  if s.groups[g].state != .free then s.complete .busy 0
  else if maskGood mask && s.ringsActive mask then
    (s.onGroup g fun _ => { Group.free with
      state := .opened
      mask := maskStreams mask
      timeout := timeout
      timer := if timeout = 0 then none else some s.timeBase }).complete .ok 0
  else s.complete .invalid 0

/-- CLOSE_GROUP (R172, R123). -/
def State.runCloseGroup (s : State) (g : GroupId) : State :=
  if s.groups[g].state = .free then s.complete .invalid 0 else (s.breakGroup g).complete .ok 0

/-! ## READ_STATS (R173, R174) -/

/-- READ_STATS: the snapshot is taken and its block write offered (R173). -/
def State.runReadStats (s : State) (i : StreamId) (block : Addr) (clear : Bool) : State :=
  if block.toNat % 64 == 0 && block.toNat + 64 ≤ 2 ^ 64 then
    let x := s.streams[i]
    { s with admin := { s.admin with
      snapshot := some ⟨i, block, clear, x.stats, x.lastLineCount, x.status, false⟩ } }
  else s.complete .invalid 0

/-- The block write is answered OK: the counters are lowered if asked, and the command completes OK (R174). -/
def State.blockLanded (s : State) : State :=
  match s.admin.snapshot with
  | some n => (if n.clear then s.bump n.stream (·.lower n.stats) else s).complete .ok 0
  | none => s

/-! ## Taking and starting commands (R141, R155, R156) -/

/-- A command in execution is carried out by the rule it names; a malformed one is INVALID (R156). -/
def State.run (s : State) : Option AdminOp → State
  | none => s.complete .invalid 0
  | some (.createRing i base log) => s.runCreateRing i base log
  | some (.deleteRing i) => s.runDeleteRing i
  | some (.resumeStream i skip) => s.runResumeStream i skip
  | some (.configureStream i on f) => s.runConfigureStream i on f
  | some (.loadDefects i list count) => s.runLoadDefects i list count
  | some (.abortStream i) => s.runAbortStream i
  | some (.openGroup g mask timeout) => s.runOpenGroup g mask timeout
  | some (.closeGroup g) => s.runCloseGroup g
  | some (.readStats i block clear) => s.runReadStats i block clear

/-- A command starts: it is in execution, and its starting event carries it out (R155). -/
def State.startCommand (s : State) (cmd : AdminCommand) : State :=
  { s with admin := { s.admin with executing := some cmd } }.run cmd.op

/-- A command is handed to the Admin Unit: it starts, or waits behind the one in execution (R155). -/
def State.handCommand (s : State) (cmd : AdminCommand) : State :=
  match s.admin.executing with
  | none => s.startCommand cmd
  | some _ => { s with admin := { s.admin with waiting := some cmd } }

/-- The waiting command starts when none is in execution, in RUNNING only (R155, R158). -/
def State.startWaiting (s : State) : State :=
  match s.admin.executing, s.admin.waiting with
  | none, some cmd =>
    if s.device = .running then { s with admin := { s.admin with waiting := none } }.startCommand cmd else s
  | _, _ => s

/-- An admin slot lands with its command: ABORTED in STOPPING, discarded in FAULTED, and otherwise handed
to the Admin Unit (R141). -/
def State.landCommand (s : State) (e : EntryId) (tag : Word) (op : Option AdminOp) : State :=
  let s := s.onRing 0 fun r => { r with inFlight := false }
  if s.device = .stopping then s.entryReady e (.unbound .aborted tag 0) true
  else if s.device = .faulted then s
  else s.handCommand ⟨e, tag, op⟩

end Sys2Proof.Machine
end

