-- ==== Sys2Proof/Machine/Settle.lean ====
section
/-! DEFINITION. What an event brings about in the same event, by the manual's "in that event": captures
finish, groups resolve, an abort completes, the waiting command starts, records become eligible, and a stop
or a soft reset ends. -/

namespace Sys2Proof.Machine

/-- Drained captures finish (R20), groups resolve (R126, R127), and an abort completes (R169). -/
def State.drain (s : State) : State := s.finishCaptures.resolveGroups.abortEnds

/-- Everything the rules place in the event at hand. The Admin Unit holds one waiting command, so one start, and what
drains after it, is all there can be (R155). DESIGN CHOICE (log entry 2), unsafe: these consequences come at the end
of the event, after the rest of it. -/
def State.conclude (s : State) : State := s.drain.startWaiting.drain.enqueue.endings

end Sys2Proof.Machine
end

