-- ==== Sys2Proof/Machine/Port.lean ====
section
/-! DEFINITION. Transactions and their owners: what the answers do, slot fetches, completion records,
write issue, responses and timeouts (chapters 7 and 9). -/

namespace Sys2Proof.Machine

/-- What a command answers: every command of the LA4 has a next state. -/
abbrev Result := Host.Outcome State Fault Refusal

/-! ## Fetching (R137, R138, R139) -/

/-- The prefetch list of a ring's stream has room; the admin ring has no such list (R137). -/
def State.listHasRoom (s : State) (r : RingId) : Bool :=
  match streamOfRing r with
  | some i => s.streams[i].prefetch.length < Config.prefetchDepth
  | none => true

/-- A request ring may fetch (R137). -/
def State.mayFetch (s : State) (r : RingId) : Bool :=
  s.device = .running && s.rings[r].state = .active && 0 < s.rings[r].pendingCount
    && !s.rings[r].inFlight && (s.freeEntry r).isSome && s.listHasRoom r

/-- The ring the fetch arbiter grants now, if it grants one (R138). -/
def State.fetchChoice (s : State) : Option RingId :=
  if (lowestFree s.reads).isSome then (rotation s.fetchRotation).find? s.mayFetch else none

/-- A slot's place in its ring: a count modulo the slots (R1). -/
def slotOf (count : Half) (slots : Nat) : Nat := count.toNat % slots

/-- A grant: the holding entry is RESERVED, the fetch count rises and the slot read is issued (R139). -/
def State.grantFetch (s : State) (r : RingId) : State :=
  match s.freeEntry r with
  | some e =>
    let ring := s.rings[r]
    let slot := slotOf ring.fetched ring.slots
    let order := s.nextOrder r
    let s := s.onEntry e fun _ => { HoldingEntry.free with state := .reserved, order := order, slotIndex := slot }
    let s := { s.onRing r fun x => { x with fetched := x.fetched + 1, inFlight := true } with fetchRotation := r + 1 }
    s.issueRead .slotFetch (.slot e) (ring.base + BitVec.ofNat 64 (64 * slot)) 64 s.responseTimeout
  | none => s

/-! ## Landing of a slot read (R140, R142) -/

/-- A stream is being aborted (R52). -/
def State.beingAborted (s : State) (i : StreamId) : Bool := s.admin.abort.any (·.stream = i)

/-- A validated request joins the tail of its stream's prefetch list (R14, R15). -/
def State.joinList (s : State) (i : StreamId) (q : Request) : State :=
  match s.streams[i].prefetch with
  | [] => adoptHead i [q] s
  | _ :: _ => s.onStream i fun x => { x with prefetch := x.prefetch ++ [q] }

/-- A stream-ring slot read lands with its data (R140). -/
def State.landSlot (s : State) (i : StreamId) (e : EntryId) (r : List Byte) : State :=
  let s := s.onRing (ringOfStream i) fun x => { x with inFlight := false }
  if s.device = .faulted then s
  else if s.device = .stopping || s.beingAborted i || s.rings[ringOfStream i].state = .halted then
    (s.entryReady e (.unbound .aborted (slotTag r) 0) (slotNotify r)).countAborted i 1
  else
    match validateRequest e r with
    | some q => s.joinList i q
    | none => s.entryReady e (.unbound .invalid (slotTag r) 0) (slotNotify r)

/-- A slot read fails: FETCH_FAULT and a halted ring, or for the admin ring a device fault (R142). -/
def State.slotFails (s : State) (e : EntryId) : State :=
  let r := ringOfEntry e
  let s := s.onRing r fun x => { x with inFlight := false }
  if r = 0 then s.enterFaulted .adminFetch
  else (s.entryReady e (.unbound .fetchFault 0 0) true).onRing r fun x =>
    { x with state := if x.state = .active then .halted else x.state }

/-! ## The setup read (R132, R133, R195) -/

/-- The values of a valid record are taken (R133). -/
def State.takeSetup (s : State) (v : Setup) : State :=
  { s.onRing 0 fun _ => ⟨.active, v.adminBase, v.adminSlots, 0, 0, false⟩ with
    setup := some v
    completion := ⟨true, v.completionBase, v.completionSlots, 0, 0, true⟩
    coalescingCount := 0
    coalescingTimer := none }

/-- The device enters RUNNING with the values of a valid record, and every enabled lane leaves OFF (R195, R59). -/
def State.startRunning (s : State) (v : Setup) : State := { s.takeSetup v with device := .running }.lanesOn

/-- In RUNNING with ENABLE still 1 the device stays there; with ENABLE written 0 during STARTING it passes on to
STOPPING, also where ENABLE was written 1 again since (R193, R194, R195). -/
def State.honourEnable (s : State) : State := if s.enable && !s.enableDropped then s else s.enterStopping

/-- The setup record is judged (R132). With ENABLE still 1 the device runs; with ENABLE written 0 during STARTING it
passes through RUNNING to STOPPING in the same event (R195). -/
def State.judgeSetup (s : State) (r : List Byte) : State :=
  match readSetup r with
  | none => s.enterFaulted .setupInvalid
  | some v => (s.startRunning v).honourEnable

/-! ## Completion records and coalescing (R150, R151) -/

/-- A counted record is taken into coalescing (R151). -/
def State.coalesce (s : State) : State :=
  match s.setup with
  | none => s
  | some v =>
    if v.threshold ≤ s.coalescingCount + 1 then
      { s with coalescingCount := 0, coalescingTimer := none }.raiseIrq irqPosted
    else
      { s with
        coalescingCount := s.coalescingCount + 1
        coalescingTimer :=
          if s.coalescingCount = 0 && s.coalescingTimer.isNone && v.coalescingTime ≠ 0 then some s.timeBase
          else s.coalescingTimer }

/-- A completion write is acknowledged: its entry is FREE, and a counted record is taken into coalescing
(R150). -/
def State.acknowledge (s : State) (e : EntryId) : State :=
  let counted := s.holding[e].counted
  let s := s.onEntry e fun _ => .free
  if counted then s.coalesce else s

/-- The record at the head of the post queue is issued (R146). -/
def State.postHead (s : State) : State :=
  match s.postQueue with
  | [] => s
  | e :: rest =>
    let slot := slotOf s.completion.post s.completion.slots
    let s := s.onEntry e fun h => { h with state := .posting, completionSlot := slot }
    let bytes := completionRecord (ringOfEntry e) s.holding[e] s.completion.nextLap
    let address := s.completion.base + BitVec.ofNat 64 (32 * slot)
    let s := { s with
      postQueue := rest
      completion := { s.completion with
        post := s.completion.post + 1
        nextLap := if slot + 1 = s.completion.slots then !s.completion.nextLap else s.completion.nextLap } }
    s.issueWrite .completionWrite (.completion e) address bytes

/-! ## Data bursts (R90, R181) -/

/-- A line with `n` more bytes issued leaves the buffer with its last burst (R90). -/
def advanceLine (l : OutputLine) (n : Nat) (rest : List OutputLine) : List OutputLine :=
  if l.bytes.length ≤ l.issued + n then rest else { l with issued := l.issued + n } :: rest

/-- The next burst of a stream's oldest line is issued (R90, R181). -/
def State.issueBurst (s : State) (i : StreamId) : State :=
  match s.streams[i].buffer with
  | [] => s
  | l :: rest =>
    let address := l.address + BitVec.ofNat 64 l.issued
    let n := burstLength address (l.bytes.length - l.issued)
    let s := s.onCapture i l.context fun k => { k with outstanding := k.outstanding + 1 }
    let s := if l.issued = 0 then s.accountLine i l else s
    let s := s.onStream i fun x => { x with buffer := advanceLine l n rest }
    s.issueWrite .dataBurst (.capture i l.context) address ((l.bytes.drop l.issued).take n)

/-- An OK response to a data burst lowers its capture's count (R184, R186). -/
def State.burstWritten (s : State) (i : StreamId) (c : ContextId) : State :=
  s.onCapture i c fun k => { k with outstanding := k.outstanding - 1 }

/-! ## Defect bursts (R165) -/

/-- The Admin Unit may issue the next defect burst (R165). -/
def State.mayBurst (s : State) : Bool :=
  match s.admin.load with
  | some l => l.issued < l.bursts && l.outstanding < Config.loadReads && !l.failed
      && (s.device = .running || s.device = .stopping) && (lowestFree s.reads).isSome
  | none => false

/-- The next defect burst is issued (R165). -/
def State.issueDefectBurst (s : State) : State :=
  match s.admin.load with
  | some l =>
    (s.onLoad fun l => { l with issued := l.issued + 1, outstanding := l.outstanding + 1 }).issueRead .defectBurst
      (.load l.issued) (l.list + BitVec.ofNat 64 (256 * l.issued)) 256 s.responseTimeout
  | none => s

/-! ## The statistics block (R173) -/

/-- The statistics block is issued (R173, R182). -/
def State.issueBlock (s : State) : State :=
  match s.admin.snapshot with
  | some n =>
    { s with admin := { s.admin with snapshot := some { n with issued := true } } }.issueWrite .statisticsBlock
      .statistics n.block (statisticsBlock n)
  | none => s

/-! ## Responses and timeouts (R183 to R189) -/

/-- A response on an ID. A stray one is discarded (R185); a late one frees its entry (R188); in RESETTING
it frees its entry and reaches no block (R191); and an answer frees its entry and is handed to the owner.
`f` is the owner's part, for the kind of transaction the command is about; for another kind the event is
not this command's, and nothing happens. -/
def State.respond (s : State) (d : Direction) (id : Nat) (f : Transaction → State → Option State) : State :=
  match s.meeting d id with
  | .stray => s
  | .late => (s.lateFreed d id).conclude
  | .resetting => (s.setTracker d id .free).conclude
  | .answers t =>
    match f t (s.setTracker d id .free) with
    | some s => s.conclude
    | none => s

/-- A beat of a read arrives (R183): the last one brings the answer, of which `f` is the owner's part; any other is
collected. DESIGN CHOICE (log entry 24), safe: the table has no row for a beat that is not the last, so the row of the
answer carries it. -/
def State.takeBeat (s : State) (id : Nat) (b : Beat) (f : Transaction → ReadAnswer → State → Option State) : State :=
  if b.last then s.respond .read id fun t s => f t (readAnswer (t.beats ++ [b])) s else s.collectBeat id b

/-- An error answer or a timeout fails the owner (R186). -/
def State.failOwner (s : State) : Option Owner → State
  | none => s
  | some .deviceStart => s.enterFaulted .setupRead
  | some (.slot e) => s.slotFails e
  | some (.load _) => s.burstFails
  | some (.capture i c) => s.writeFault i c
  | some (.completion _) => s.enterFaulted .completionWrite
  | some .statistics => s.complete .writeFault 0

/-- The timer of an ISSUED entry has run out; in RESETTING no response timer runs (R187, R191). -/
def State.responseLate (s : State) (t : Transaction) : Bool :=
  s.device != .resetting && ranOut s.timeBase t.issueTime (t.timeout * 1000)

/-- An entry whose timer has run out is QUARANTINED, its owner forgotten, and counted (R187). -/
def State.quarantineEntry (s : State) (d : Direction) (id : Nat) (t : Transaction) : State :=
  { s.setTracker d id (.quarantined { t with owner := none }) with quarantine := s.quarantine + 1 }

/-- More entries quarantined than the limit allows fault the device (R189). -/
def State.judgeQuarantine (s : State) : State :=
  if Config.quarantineLimit ≤ s.quarantine then s.enterFaulted .quarantine else s

/-- A response timeout: the owner is failed, the entry is QUARANTINED, and the limit is judged (R187, R189). -/
def State.timeOut (s : State) (d : Direction) (id : Nat) (t : Transaction) : State :=
  ((s.failOwner t.owner).quarantineEntry d id t).judgeQuarantine

/-! ## The admin slot in flight (R141) -/

/-- A transaction is the read of an admin slot. -/
def TrackerEntry.isAdminFetch : TrackerEntry → Bool
  | .issued t =>
    match t.kind, t.owner with
    | .slotFetch, some (.slot e) => ringOfEntry e = 0
    | _, _ => false
  | .quarantined _ => false
  | .free => false

/-- The admin slot read in flight: the ring has at most one (R137). -/
def State.adminFetch (s : State) : Option (Fin Config.readEntries) :=
  (List.finRange Config.readEntries).find? fun j => (s.reads[j]).isAdminFetch

/-- The read of an admin slot lands and holds this command (R141); any other transaction is not the event's. -/
def State.adminAnswer (t : Transaction) (tag : Word) (op : Option AdminOp) (s : State) : Option State :=
  match t.kind, t.owner with
  | .slotFetch, some (.slot e) => if ringOfEntry e = 0 then some (s.landCommand e tag op) else none
  | _, _ => none

/-- The last beat of the admin slot in flight arrives, and the slot holds this command; with no admin slot in flight,
or with an error among its beats, nothing happens (R183, log entry 6). -/
def State.adminCommand (s : State) (tag : Word) (op : AdminOp) : State :=
  match s.adminFetch with
  | some j => s.respond .read j fun t s => if beatsOkay t.beats then State.adminAnswer t tag (some op) s else none
  | none => s

end Sys2Proof.Machine
end

