-- ==== Sys2Proof/Machine/AdminCommands.lean ====
section
/-! DEFINITION. The commands of the Admin Unit. Each of the nine admin commands is the event in which the
admin slot read in flight lands holding that command, well-formed (R141, R155, R156). DESIGN CHOICE (log entry 6),
safe. -/

namespace Sys2Proof.Machine

/-- CREATE_RING (R159). -/
def execCreateRing (tag : Word) (stream : StreamId) (base : Addr) (log2Slots : Byte) (s : State) : Result :=
  .next (s.adminCommand tag (.createRing stream base log2Slots.toNat))

/-- DELETE_RING (R160). -/
def execDeleteRing (tag : Word) (stream : StreamId) (s : State) : Result :=
  .next (s.adminCommand tag (.deleteRing stream))

/-- RESUME_STREAM (R161). -/
def execResumeStream (tag : Word) (stream : StreamId) (skip : Bool) (s : State) : Result :=
  .next (s.adminCommand tag (.resumeStream stream skip))

/-- CONFIGURE_STREAM (R163). -/
def execConfigureStream (tag : Word) (stream : StreamId) (laneEnable : Bool) (fields : ProfileFields) (s : State) : Result :=
  .next (s.adminCommand tag (.configureStream stream laneEnable fields))

/-- LOAD_DEFECTS (R164). -/
def execLoadDefects (tag : Word) (stream : StreamId) (list : Addr) (count : Half) (s : State) : Result :=
  .next (s.adminCommand tag (.loadDefects stream list count.toNat))

/-- DEFECT_BURST_ISSUE: the next burst, when the load may issue one (R165). -/
def execDefectBurstIssue (s : State) : Result := .next (if s.mayBurst then s.issueDefectBurst else s)

/-- DEFECT_BURST_LANDS: a burst lands in the load buffer, and the last one ends the load (R165, R166, R183). -/
def execDefectBurstLands (id : Nat) (beat : Beat) (s : State) : Result :=
  .next (s.takeBeat id beat fun t a s =>
    match t.owner, a with
    | some (.load j), .data burst => some (s.burstLands j burst)
    | _, _ => none)

/-- DEFECT_BURST_FAILS: an error response to a defect burst (R167, R183). -/
def execDefectBurstFails (id : Nat) (beat : Beat) (s : State) : Result :=
  .next (s.takeBeat id beat fun t a s =>
    match t.owner, a with
    | some (.load _), .error => some s.burstFails
    | _, _ => none)

/-- ABORT_STREAM (R168). -/
def execAbortStream (tag : Word) (stream : StreamId) (s : State) : Result :=
  .next (s.adminCommand tag (.abortStream stream))

/-- The abort in execution can complete (R169). -/
def State.abortCanEnd (s : State) : Bool :=
  s.admin.abort.any fun a => (s.capture? a.stream 0).isNone && (s.capture? a.stream 1).isNone

/-- ABORT_STREAM_COMPLETES: both contexts of the stream are free (R169). -/
def execAbortStreamCompletes (s : State) : Result := .next (if s.abortCanEnd then s.abortEnds.conclude else s)

/-- OPEN_GROUP (R171). -/
def execOpenGroup (tag : Word) (group : GroupId) (mask : Byte) (timeout : Half) (s : State) : Result :=
  .next (s.adminCommand tag (.openGroup group mask timeout.toNat))

/-- CLOSE_GROUP (R172). -/
def execCloseGroup (tag : Word) (group : GroupId) (s : State) : Result :=
  .next (s.adminCommand tag (.closeGroup group))

/-- READ_STATS (R173). -/
def execReadStats (tag : Word) (stream : StreamId) (block : Addr) (clear : Bool) (s : State) : Result :=
  .next (s.adminCommand tag (.readStats stream block clear))

/-- STATISTICS_BLOCK_ISSUE: the rotation grants the Admin Unit (R173, R182). -/
def execStatisticsBlockIssue (s : State) : Result :=
  .next (if s.granted = some 1 then { s with writeRotation := afterRequester 1 }.issueBlock else s)

/-- STATISTICS_BLOCK_RESPONSE: the block write is answered (R174). -/
def execStatisticsBlockResponse (id : Nat) (answer : WriteAnswer) (s : State) : Result :=
  .next (s.respond .write id fun t s =>
    match t.owner, answer with
    | some .statistics, .okay => some s.blockLanded
    | some .statistics, .error _ => some (s.complete .writeFault 0)
    | _, _ => none)

/-- The waiting command can start (R155, R158). -/
def State.canStart (s : State) : Bool :=
  s.admin.executing.isNone && s.admin.waiting.isSome && s.device = .running

/-- ADMIN_COMMAND_START: the waiting command starts once none is in execution (R155). -/
def execAdminCommandStart (s : State) : Result := .next (if s.canStart then s.startWaiting.conclude else s)

end Sys2Proof.Machine
end

