-- ==== Sys2Proof/Machine/LineCommands.lean ====
section
/-! DEFINITION. The words of a line link and the packets a lane delivers (chapters 2 and 3). -/

namespace Sys2Proof.Machine

/-- A word arrives on a lane; the stream takes what the lane hands it, and a word that hands nothing over
brings about nothing else (R58, R73). -/
def State.word (s : State) (i : StreamId) (w : WordClass) : State :=
  match s.laneStep i w with
  | (s, []) => s
  | (s, item :: items) => ((item :: items).foldl (State.takeItem i) s).conclude

/-- A lane delivers packets, because it is in RUN: the stream is BETWEEN_FRAMES or IN_FRAME (R26, R73). -/
def State.delivers (s : State) (i : StreamId) : Bool :=
  s.streams[i].status = .betweenFrames || s.streams[i].status = .inFrame

/-- IDLE_WORD (R71, R72). -/
def execIdleWord (stream : StreamId) (s : State) : Result := .next (s.word stream .idle)

/-- TRAIN_WORD (R60, R70). -/
def execTrainWord (stream : StreamId) (s : State) : Result := .next (s.word stream .train)

/-- DATA_WORD (R62). -/
def execDataWord (stream : StreamId) (value : Half) (s : State) : Result := .next (s.word stream (.data value))

/-- ILLEGAL_WORD: a control word of another code, or a word that could not be decoded (R58, R69). -/
def execIllegalWord (stream : StreamId) (code : Option Half) (s : State) : Result :=
  .next (s.word stream (controlClass code))

/-- FRAME_START: the packet delivered at the Stream Controller (R34, R31). -/
def execFrameStart (stream : StreamId) (number : Half) (profileId : BitVec 4) (s : State) : Result :=
  .next (if s.delivers stream then (s.takeFrameStart stream number profileId).conclude else s)

/-- LINE: the packet delivered at the Stream Controller (R41 to R44). DESIGN CHOICE (log entry 7), safe: the row is the
packet's arrival there; `DATA_WORD` delivers one in the event of its last word. -/
def execLine (stream : StreamId) (index : BitVec 14) (exposure : Exposure) (pixels : List Pixel) (damaged : Bool)
    (s : State) : Result :=
  .next (s.takeLine stream index.toNat exposure pixels damaged)

/-- FRAME_END: the packet delivered at the Stream Controller (R47). -/
def execFrameEnd (stream : StreamId) (number lineCount : Half) (s : State) : Result :=
  .next (if s.delivers stream then (s.takeFrameEnd stream number lineCount).conclude else s)

/-- LINE_GAP_TIMEOUT: the frame in progress closes TRUNCATED (R45). -/
def execLineGapTimeout (stream : StreamId) (s : State) : Result :=
  .next (match s.streams[stream].gapTimer, s.streams[stream].active with
    | some start, some p =>
      if ranOut s.timeBase start (p.gapTimeout * 1000) then (s.closeFrame stream .truncated).conclude else s
    | _, _ => s)

/-- DEADLINE_TIMER_RUNS_OUT: the WAITING head finishes EXPIRED (R40). -/
def execDeadlineTimerRunsOut (stream : StreamId) (s : State) : Result :=
  .next (match s.streams[stream].deadline, s.streams[stream].prefetch with
    | some start, q :: _ =>
      if ranOut s.timeBase start (q.deadline * 1000) then (s.finishHead stream .expired).conclude else s
    | _, _ => s)

/-- FLUSH_STEP: a pending flush takes a room notice. In FAULTED and RESETTING no notice comes (R107, R110).
DEDUCED (log entry 3), safe: a command given there anyway changes nothing. -/
def execFlushStep (stream : StreamId) (s : State) : Result :=
  .next (if s.device = .faulted || s.device = .resetting then s else s.flushStream stream)

/-- CAPTURE_FINISHES: a drained capture becomes FINISHED (R20). -/
def execCaptureFinishes (stream : StreamId) (context : ContextId) (s : State) : Result :=
  .next (if s.drained stream context then (s.finishCapture stream context).conclude else s)

/-- GROUP_RESOLVES: a group with no member to await releases its members (R126, R127, R128). -/
def execGroupResolves (group : GroupId) (s : State) : Result :=
  .next (if s.groups[group].resolves then (s.resolveGroup group).conclude else s)

/-- GROUP_TIMEOUT: a group whose timer has run out breaks (R115, R122). -/
def execGroupTimeout (group : GroupId) (s : State) : Result :=
  .next (match s.groups[group].timer with
    | some start =>
      if ranOut s.timeBase start (s.groups[group].timeout * 1000) then (s.breakGroup group).conclude else s
    | none => s)

end Sys2Proof.Machine
end

