-- ==== Sys2Proof/Machine/PortCommands.lean ====
section
/-! DEFINITION. The commands of the Memory Port: data bursts and their responses, late, stray and RESETTING
responses, and the response timeout (chapter 9). -/

namespace Sys2Proof.Machine

/-- The stream a requester of the rotation stands for. -/
def streamOfRequester (q : RequesterId) : Option StreamId := if 2 ≤ q.val then streamOf (q.val - 2) else none

/-- DATA_BURST_ISSUE: the rotation grants a stream, and the next burst of its oldest line is issued (R181, R182). -/
def execDataBurstIssue (s : State) : Result :=
  .next (match s.granted with
    | some q =>
      match streamOfRequester q with
      | some i => { s with writeRotation := afterRequester q }.issueBurst i
      | none => s
    | none => s)

/-- DATA_BURST_RESPONSE: an OK response to a data burst (R184, R186). -/
def execDataBurstResponse (id : Nat) (s : State) : Result :=
  .next (s.respond .write id fun t s =>
    match t.owner with
    | some (.capture i c) => some (s.burstWritten i c)
    | _ => none)

/-- DATA_BURST_ERROR: an error response to a data burst (R53, R19). -/
def execDataBurstError (id : Nat) (_code : ErrorCode) (s : State) : Result :=
  .next (s.respond .write id fun t s =>
    match t.owner with
    | some (.capture i c) => some (s.writeFault i c)
    | _ => none)

/-- LATE_RESPONSE: a response that names a QUARANTINED entry (R188). -/
def execLateResponse (direction : Direction) (id : Nat) (s : State) : Result :=
  .next (match s.meeting direction id with
    | .late => (s.lateFreed direction id).conclude
    | _ => s)

/-- STRAY_RESPONSE: a response that names a FREE entry or none is discarded (R185). -/
def execStrayResponse (_direction : Direction) (_id : Nat) (s : State) : Result := .next s

/-- RESETTING_RESPONSE: a response taken in RESETTING frees its entry and reaches no block (R191). -/
def execResettingResponse (direction : Direction) (id : Nat) (s : State) : Result :=
  .next (match s.meeting direction id with
    | .resetting => (s.setTracker direction id .free).conclude
    | _ => s)

/-- RESPONSE_TIMEOUT: the timer of an ISSUED entry runs out (R187, R189). -/
def execResponseTimeout (direction : Direction) (id : Nat) (s : State) : Result :=
  .next (match s.trackerEntry direction id with
    | some (.issued t) => if s.responseLate t then (s.timeOut direction id t).conclude else s
    | _ => s)

end Sys2Proof.Machine
end

