-- ==== Sys2Proof/Machine/RingCommands.lean ====
section
/-! DEFINITION. The commands of the Ring Engine: the setup read, fetches and their landing, completion
records and their acknowledgement, and coalescing (chapter 7). -/

namespace Sys2Proof.Machine

/-- SETUP_READ_RESPONSE: a valid record starts the device, anything else faults it (R132, R183, R195). -/
def execSetupReadResponse (id : Nat) (beat : Beat) (s : State) : Result :=
  .next (s.takeBeat id beat fun t a s =>
    match t.owner, a with
    | some .deviceStart, .data r => some (s.judgeSetup r)
    | some .deviceStart, .error => some (s.enterFaulted .setupRead)
    | _, _ => none)

/-- FETCH_GRANT: the arbiter grants the first ring that may fetch; with none it waits (R138, R139). -/
def execFetchGrant (s : State) : Result :=
  .next (match s.fetchChoice with
    | some r => s.grantFetch r
    | none => s)

/-- SLOT_READ_LANDS: a stream-ring slot read completes with its data (R140, R183). -/
def execSlotReadLands (id : Nat) (beat : Beat) (s : State) : Result :=
  .next (s.takeBeat id beat fun t a s =>
    match t.owner, a with
    | some (.slot e), .data r =>
      match streamOfRing (ringOfEntry e) with
      | some i => some (s.landSlot i e r)
      | none => none
    | _, _ => none)

/-- ADMIN_SLOT_LANDS: an admin slot read completes with its data (R141, R156, R183). -/
def execAdminSlotLands (id : Nat) (beat : Beat) (s : State) : Result :=
  .next (s.takeBeat id beat fun t a s =>
    match a with
    | .data r => State.adminAnswer t (slotTag r) (readAdminOp r) s
    | .error => none)

/-- SLOT_READ_FAILS: a slot read receives an error response (R142, R183). -/
def execSlotReadFails (id : Nat) (beat : Beat) (s : State) : Result :=
  .next (s.takeBeat id beat fun t a s =>
    match t.owner, a with
    | some (.slot e), .error => some (s.slotFails e)
    | _, _ => none)

/-- POST: the rotation grants the completion writer, which issues the record at the head of the post queue;
the record behind it may then be eligible (R146, R145, R182). -/
def execPost (s : State) : Result :=
  .next (if s.granted = some 0 then { s with writeRotation := afterRequester 0 }.postHead.enqueue else s)

/-- COMPLETION_WRITE_ACK: an OK response to a completion write (R150). -/
def execCompletionWriteAck (id : Nat) (s : State) : Result :=
  .next (s.respond .write id fun t s =>
    match t.owner with
    | some (.completion e) => some (s.acknowledge e)
    | _ => none)

/-- COMPLETION_WRITE_ERROR: an error response to a completion write faults the device (R150). -/
def execCompletionWriteError (id : Nat) (_code : ErrorCode) (s : State) : Result :=
  .next (s.respond .write id fun t s =>
    match t.owner with
    | some (.completion _) => some (s.enterFaulted .completionWrite)
    | _ => none)

/-- COALESCING_TIMER_RUNS_OUT: POSTED is set and the count returns to 0 (R152). -/
def execCoalescingTimerRunsOut (s : State) : Result :=
  .next (match s.coalescingTimer, s.setup with
    | some start, some v =>
      if ranOut s.timeBase start v.coalescingTime then
        { s with coalescingCount := 0, coalescingTimer := none }.raiseIrq irqPosted
      else s
    | _, _ => s)

end Sys2Proof.Machine
end

