-- ==== Sys2Proof/Machine/Window.lean ====
section
/-! DEFINITION. The commands of the Register Window: enable, resets and register writes (chapter 10). -/

namespace Sys2Proof.Machine

/-- All byte strobes of a register write are set; any other write is ignored (R203). -/
def allStrobes : Strobes := 0b1111#4

/-! ## CONTROL (R194, R195, R198) -/

/-- STARTING begins: the setup read is issued, or the address makes the setup invalid at once (R195, R132). -/
def State.beginStart (s : State) : State :=
  let s := { s with device := .starting, enableDropped := false }
  if setupAddressGood s.setupAddress then
    s.issueRead .setupRead .deviceStart s.setupAddress 64 Config.setupTimeout
  else s.enterFaulted .setupInvalid

/-- A CONTROL write of ENABLE; the device acts on a change of the bit, not on its value (R194). In STARTING a change to 0
is kept until the setup is judged, whatever is written after it (R193, R194, R195). -/
def State.writeEnable (s : State) (on : Bool) : State :=
  if s.device = .resetting || s.enable = on then s
  else
    let s := { s with enable := on }
    match s.device, on with
    | .off, true => s.beginStart
    | .starting, false => { s with enableDropped := true }
    | .running, false => s.enterStopping.conclude
    | _, _ => s

/-- A CONTROL write of SOFT_RESET 1 (R198). -/
def State.writeSoftReset (s : State) : State :=
  if s.device = .resetting then s else s.beginReset.conclude

/-! ## PRODUCER and CONSUMED (R135, R148) -/

/-- A write that is ignored (R204). -/
def State.writeIgnored (s : State) : State := s.raiseIrq irqWriteIgnored

/-- A PRODUCER write of a count to a ring (R135). -/
def State.writeProducer (s : State) (selector : Byte) (c : Half) : State :=
  match ringOf selector with
  | none => s.writeIgnored
  | some r =>
    if s.rings[r].state = .absent || s.rings[r].slots < (c - s.rings[r].fetched).toNat then s.writeIgnored
    else s.onRing r fun x => { x with producer := c }

/-- A CONSUMED write of a count (R148). -/
def State.writeConsumed (s : State) (c : Half) : State :=
  if !s.completion.present || s.completion.unread < (c - s.completion.consumed).toNat then s.writeIgnored
  else { s with completion := { s.completion with consumed := c } }

/-! ## Register writes by offset (R203, R216, R217) -/

/-- A write to SETUP_LO or SETUP_HI sets its half (R203). -/
def State.writeSetup (s : State) (high : Bool) (w : Word) : State :=
  { s with setupAddress :=
      if high then w ++ s.setupAddress.setWidth 32 else s.setupAddress.extractLsb' 32 32 ++ w }

/-- A full-width write to the register at an offset; ID, STATUS, TIME and no register are unchanged
(R203, R216), and bits a register does not have are disregarded (R217). -/
def State.writeRegister (s : State) (offset w : Word) : State :=
  if offset = 0x04#32 then (if w.getLsbD 1 then s.writeSoftReset else s.writeEnable (w.getLsbD 0))
  else if offset = 0x0C#32 then s.writeSetup false w
  else if offset = 0x10#32 then s.writeSetup true w
  else if offset = 0x14#32 then s.writeProducer (w.extractLsb' 16 8) (w.setWidth 16)
  else if offset = 0x18#32 then s.writeConsumed (w.setWidth 16)
  else if offset = 0x1C#32 then s.clearIrq (w.setWidth 5)
  else if offset = 0x20#32 then s.withIrq s.irqStatus (w.setWidth 5)
  else s

/-- A register access with a byte strobe clear changes nothing (R203). -/
def strobed (strobes : Strobes) (s t : State) : Result := .next (if strobes = allStrobes then t else s)

/-! ## The meanings -/

/-- ENABLE: a CONTROL write with SOFT_RESET 0 (R194). -/
def execEnable (strobes : Strobes) (value : Bool) (s : State) : Result := strobed strobes s (s.writeEnable value)

/-- SOFT_RESET: a CONTROL write with SOFT_RESET 1; its ENABLE bit is disregarded (R194, R198). -/
def execSoftReset (strobes : Strobes) (_enableBit : Bool) (s : State) : Result := strobed strobes s s.writeSoftReset

/-- SOFT_RESET_ENDS: the Memory Port has become idle in RESETTING (R198). -/
def execSoftResetEnds (s : State) : Result := .next (if s.resetEnds then s.toReset else s)

/-- PIN_RESET (R199). -/
def execPinReset (s : State) : Result := .next s.toReset

/-- PRODUCER: bits 0..15 the count, bits 16..23 the ring selector, the rest disregarded (R135, R217). -/
def execProducer (strobes : Strobes) (data : Word) (s : State) : Result :=
  strobed strobes s (s.writeProducer (data.extractLsb' 16 8) (data.setWidth 16))

/-- CONSUMED: bits 0..15 the count, the rest disregarded (R148, R217). -/
def execConsumed (strobes : Strobes) (data : Word) (s : State) : Result :=
  strobed strobes s (s.writeConsumed (data.setWidth 16))

/-- IRQ_STATUS: the bits written 1 are cleared (R204). -/
def execIrqStatus (strobes : Strobes) (data : Word) (s : State) : Result :=
  strobed strobes s (s.clearIrq (data.setWidth 5))

/-- IRQ_ENABLE: the enable bits are set, and the line follows (R205). -/
def execIrqEnable (strobes : Strobes) (data : Word) (s : State) : Result :=
  strobed strobes s (s.withIrq s.irqStatus (data.setWidth 5))

/-- REGISTER_WRITE: a write at any offset of the window (R203). -/
def execRegisterWrite (offset : Word) (strobes : Strobes) (data : Word) (s : State) : Result :=
  strobed strobes s (s.writeRegister offset data)

/-- STOP_COMPLETES (R197). -/
def execStopCompletes (s : State) : Result := .next (if s.stopEnds then s.toStopped else s)

/-- TIME_BASE_TICK: the count rises by 1 and wraps, in every device state (R202). -/
def execTimeBaseTick (s : State) : Result := .next { s with timeBase := s.timeBase + 1 }

end Sys2Proof.Machine
end

