-- ==== Sys2Proof/Machine/Dispatch.lean ====
section
/-! DEFINITION. One arm per command: a direct call of its meaning. -/

namespace Sys2Proof.Machine

def exec (i : Instr) (s : State) : Host.Outcome State Fault Refusal :=
  match i with
  | .enable strobes value => Sys2Proof.Machine.execEnable strobes value s
  | .softReset strobes enableBit => Sys2Proof.Machine.execSoftReset strobes enableBit s
  | .softResetEnds => Sys2Proof.Machine.execSoftResetEnds s
  | .pinReset => Sys2Proof.Machine.execPinReset s
  | .producer strobes data => Sys2Proof.Machine.execProducer strobes data s
  | .consumed strobes data => Sys2Proof.Machine.execConsumed strobes data s
  | .irqStatus strobes data => Sys2Proof.Machine.execIrqStatus strobes data s
  | .irqEnable strobes data => Sys2Proof.Machine.execIrqEnable strobes data s
  | .registerWrite offset strobes data => Sys2Proof.Machine.execRegisterWrite offset strobes data s
  | .setupReadResponse id beat => Sys2Proof.Machine.execSetupReadResponse id beat s
  | .fetchGrant => Sys2Proof.Machine.execFetchGrant s
  | .slotReadLands id beat => Sys2Proof.Machine.execSlotReadLands id beat s
  | .adminSlotLands id beat => Sys2Proof.Machine.execAdminSlotLands id beat s
  | .slotReadFails id beat => Sys2Proof.Machine.execSlotReadFails id beat s
  | .createRing tag stream base log2Slots => Sys2Proof.Machine.execCreateRing tag stream base log2Slots s
  | .deleteRing tag stream => Sys2Proof.Machine.execDeleteRing tag stream s
  | .resumeStream tag stream skip => Sys2Proof.Machine.execResumeStream tag stream skip s
  | .configureStream tag stream laneEnable fields => Sys2Proof.Machine.execConfigureStream tag stream laneEnable fields s
  | .loadDefects tag stream list count => Sys2Proof.Machine.execLoadDefects tag stream list count s
  | .defectBurstIssue => Sys2Proof.Machine.execDefectBurstIssue s
  | .defectBurstLands id beat => Sys2Proof.Machine.execDefectBurstLands id beat s
  | .defectBurstFails id beat => Sys2Proof.Machine.execDefectBurstFails id beat s
  | .abortStream tag stream => Sys2Proof.Machine.execAbortStream tag stream s
  | .abortStreamCompletes => Sys2Proof.Machine.execAbortStreamCompletes s
  | .openGroup tag group mask timeout => Sys2Proof.Machine.execOpenGroup tag group mask timeout s
  | .closeGroup tag group => Sys2Proof.Machine.execCloseGroup tag group s
  | .readStats tag stream block clear => Sys2Proof.Machine.execReadStats tag stream block clear s
  | .statisticsBlockIssue => Sys2Proof.Machine.execStatisticsBlockIssue s
  | .statisticsBlockResponse id answer => Sys2Proof.Machine.execStatisticsBlockResponse id answer s
  | .adminCommandStart => Sys2Proof.Machine.execAdminCommandStart s
  | .idleWord stream => Sys2Proof.Machine.execIdleWord stream s
  | .trainWord stream => Sys2Proof.Machine.execTrainWord stream s
  | .dataWord stream value => Sys2Proof.Machine.execDataWord stream value s
  | .illegalWord stream code => Sys2Proof.Machine.execIllegalWord stream code s
  | .frameStart stream number profileId => Sys2Proof.Machine.execFrameStart stream number profileId s
  | .line stream index exposure pixels damaged => Sys2Proof.Machine.execLine stream index exposure pixels damaged s
  | .frameEnd stream number lineCount => Sys2Proof.Machine.execFrameEnd stream number lineCount s
  | .dataBurstIssue => Sys2Proof.Machine.execDataBurstIssue s
  | .flushStep stream => Sys2Proof.Machine.execFlushStep stream s
  | .dataBurstResponse id => Sys2Proof.Machine.execDataBurstResponse id s
  | .dataBurstError id code => Sys2Proof.Machine.execDataBurstError id code s
  | .captureFinishes stream context => Sys2Proof.Machine.execCaptureFinishes stream context s
  | .groupResolves group => Sys2Proof.Machine.execGroupResolves group s
  | .post => Sys2Proof.Machine.execPost s
  | .completionWriteAck id => Sys2Proof.Machine.execCompletionWriteAck id s
  | .completionWriteError id code => Sys2Proof.Machine.execCompletionWriteError id code s
  | .lateResponse direction id => Sys2Proof.Machine.execLateResponse direction id s
  | .strayResponse direction id => Sys2Proof.Machine.execStrayResponse direction id s
  | .resettingResponse direction id => Sys2Proof.Machine.execResettingResponse direction id s
  | .responseTimeout direction id => Sys2Proof.Machine.execResponseTimeout direction id s
  | .deadlineTimerRunsOut stream => Sys2Proof.Machine.execDeadlineTimerRunsOut stream s
  | .lineGapTimeout stream => Sys2Proof.Machine.execLineGapTimeout stream s
  | .groupTimeout group => Sys2Proof.Machine.execGroupTimeout group s
  | .coalescingTimerRunsOut => Sys2Proof.Machine.execCoalescingTimerRunsOut s
  | .stopCompletes => Sys2Proof.Machine.execStopCompletes s
  | .timeBaseTick => Sys2Proof.Machine.execTimeBaseTick s

end Sys2Proof.Machine
end

