-- ==== Sys2Proof/Machine/Records.lean ====
section
/-! DEFINITION. The records a host writes, built from what they say: the layouts of chapter 11 from the other side
than `Operands.lean` reads them. -/

namespace Sys2Proof.Machine

/-- Bytes that are zero. -/
def zeros (n : Nat) : List Byte := List.replicate n 0

/-- The bits of a byte, bit 0 first. -/
def bitsByte (b0 b1 b2 b3 : Bool) : Byte :=
  BitVec.ofNat 8 (b0.toNat + 2 * b1.toNat + 4 * b2.toNat + 8 * b3.toNat)

/-- Assembly codes (R209). -/
def Assembly.code : Assembly → Byte
  | .plain => 0 | .merge => 1 | .split => 2

/-- Format codes (R209). -/
def PixelFormat.code : PixelFormat → Byte
  | .u16 => 0 | .u8 => 1 | .p12 => 2

/-- Selector codes (R209). -/
def Selector.code : Selector → Byte
  | .next => 0 | .numbered => 1

/-- The group field: 0 for none, and otherwise the group's id (R209, R113). -/
def groupField : Option GroupId → Byte
  | none => 0
  | some g => BitVec.ofNat 8 (g.val + 1)

/-- The record of a CAPTURE request (R209). -/
def requestRecord (q : Request) : List Byte :=
  [1, q.assembly.code, q.format.code, q.selector.code] ++ leBytes 4 q.tag.toNat ++ leBytes 2 q.number.toNat
  ++ [groupField q.group, bitsByte q.repair q.subtract q.acceptUnsettled q.notify] ++ leBytes 2 q.deadline
  ++ leBytes 2 q.top ++ leBytes 2 q.rows ++ leBytes 2 q.left ++ leBytes 2 q.cols ++ zeros 2
  ++ leBytes 4 q.pitch ++ zeros 4 ++ leBytes 8 q.buffer.toNat ++ leBytes 8 q.length ++ leBytes 8 q.plane2.toNat
  ++ zeros 8

/-- The record of a MARK (R209). -/
def markRecord (tag : Word) (notify : Bool) : List Byte :=
  [2, 0, 0, 0] ++ leBytes 4 tag.toNat ++ zeros 3 ++ [bitsByte false false false notify] ++ zeros 52

/-- Arguments that fit the fields of their record (R210). -/
def AdminOp.fits : AdminOp → Bool
  | .createRing _ _ log => log < 256
  | .loadDefects _ _ count => count < 65536
  | .openGroup _ _ timeout => timeout < 65536
  | .deleteRing _ | .resumeStream .. | .configureStream .. | .abortStream _ | .closeGroup _ | .readStats .. => true

/-- Bytes 0 to 7 of an admin record: code, target, flag, tag (R210). -/
def adminHead (code : Byte) (target : Nat) (flag : Bool) (tag : Word) : List Byte :=
  [code, BitVec.ofNat 8 target, bitsByte flag false false false, 0] ++ leBytes 4 tag.toNat

/-- The record of an admin command (R210). -/
def adminRecord (tag : Word) : AdminOp → List Byte
  | .createRing i base log => adminHead 1 i false tag ++ leBytes 8 base.toNat ++ leBytes 1 log ++ zeros 47
  | .deleteRing i => adminHead 2 i false tag ++ zeros 56
  | .configureStream i on f =>
    adminHead 3 i on tag ++ [f.profileId, f.layout, f.maxLag, f.quota] ++ leBytes 2 f.lineLength.toNat
    ++ leBytes 2 f.frameHeight.toNat ++ [f.mergeRatio, f.settleFrames, f.referenceRows, f.gapTimeout]
    ++ leBytes 2 f.knee.toNat ++ leBytes 2 f.fixedBlack.toNat ++ zeros 40
  | .loadDefects i list count => adminHead 4 i false tag ++ leBytes 8 list.toNat ++ leBytes 2 count ++ zeros 46
  | .abortStream i => adminHead 5 i false tag ++ zeros 56
  | .resumeStream i skip => adminHead 6 i skip tag ++ zeros 56
  | .openGroup g mask timeout => adminHead 7 (g.val + 1) false tag ++ [mask, 0] ++ leBytes 2 timeout ++ zeros 52
  | .closeGroup g => adminHead 8 (g.val + 1) false tag ++ zeros 56
  | .readStats i block clear => adminHead 9 i clear tag ++ leBytes 8 block.toNat ++ zeros 48

end Sys2Proof.Machine
end

