-- ==== Sys2Proof/Safety.lean ====
section
/-! DEFINITION. What holds of a well-kept state, in the terms the claims use: no run of the LA4 stops, so a safe
run is one whose every state fits. -/

namespace Sys2Proof.Machine

/-! ## The Register Window -/

/-- The interrupt line is at the level its two registers give (R205). -/
def State.lineFollows (s : State) : Prop := s.irqLine = lineLevel s.irqStatus s.irqEnable

/-- The device state and what goes with it: SOFT_RESET reads 1 in RESETTING alone (R198), a cause stands in
FAULTED and may stand in RESETTING (R203), and outside FAULTED at most 8 entries are quarantined (R189). -/
structure State.deviceFits (s : State) : Prop where
  softReset : s.softReset = true ↔ s.device = .resetting
  cause : s.cause ≠ .none → s.device = .faulted ∨ s.device = .resetting
  faulted : s.device = .faulted → s.cause ≠ .none
  quarantine : s.device ≠ .faulted → s.quarantine ≤ 8

/-! ## Rings and the Memory Port -/

/-- No ring holds more pending requests than slots (R135), and the completion ring no more records unread
(R148). -/
structure State.ringsBounded (s : State) : Prop where
  requests : ∀ r : RingId, s.rings[r].pendingCount ≤ s.rings[r].slots
  records : s.completion.unread ≤ s.completion.slots

/-- A QUARANTINED tracker entry. -/
def TrackerEntry.isQuarantined : TrackerEntry → Bool
  | .quarantined _ => true
  | .issued _ => false
  | .free => false

/-- An ISSUED entry whose transaction has this owner. -/
def TrackerEntry.isFor : TrackerEntry → Owner → Bool
  | .issued t, o => t.owner = some o
  | .quarantined _, _ => false
  | .free, _ => false

/-- The QUARANTINED entries of the two trackers together. -/
def State.quarantined (s : State) : Nat :=
  s.reads.toList.countP (·.isQuarantined) + s.writes.toList.countP (·.isQuarantined)

/-- The quarantine count counts the QUARANTINED entries (chapter 9). -/
def State.quarantineCounts (s : State) : Prop := s.quarantine = s.quarantined

/-- Every entry of both trackers is FREE: the Memory Port is idle (R191). -/
abbrev State.allFree (s : State) : Prop :=
  (∀ j : Fin Config.readEntries, s.reads[j] = .free) ∧ ∀ j : Fin Config.writeEntries, s.writes[j] = .free

/-- The setup read has its own moment: in OFF every tracker entry is FREE, in STARTING none but one read, which is
the setup read, and elsewhere only a soft reset may still await a setup read (R132, R191, R195, R197). -/
structure State.startFits (s : State) : Prop where
  off : s.device = .off → s.allFree
  writes : s.device = .starting → ∀ j : Fin Config.writeEntries, s.writes[j] = .free
  reads : s.device = .starting → ∀ j : Fin Config.readEntries, s.reads[j] ≠ .free →
    ∃ t, s.reads[j] = .issued t ∧ t.owner = some .deviceStart
  one : s.device = .starting → ∀ j k : Fin Config.readEntries, s.reads[j] ≠ .free → s.reads[k] ≠ .free → j = k
  later : s.device ≠ .starting → s.device ≠ .resetting →
    ∀ (j : Fin Config.readEntries) t, s.reads[j] = .issued t → t.owner ≠ some .deviceStart

/-- Outside RESETTING every ISSUED entry of both trackers has its owner: an owner is lost in quarantine alone, and a
QUARANTINED entry returns to ISSUED only as RESETTING begins (R178, R187, R191). -/
def State.ownersFit (s : State) : Prop :=
  s.device ≠ .resetting →
    (∀ (j : Fin Config.readEntries) t, s.reads[j] = .issued t → t.owner ≠ none)
    ∧ ∀ (j : Fin Config.writeEntries) t, s.writes[j] = .issued t → t.owner ≠ none

/-- The bounds of the buffers: a Line Output Buffer holds at most 8 lines (R89), the reservations never exceed the 128
slots of the Pairing Store (R95), a profile is staged only behind an active one (R28), and the post queue holds an
entry at most once (R145). -/
structure State.boundsFit (s : State) : Prop where
  buffers : ∀ i : StreamId, s.streams[i].buffer.length ≤ 8
  staged : ∀ i : StreamId, s.streams[i].active = none → s.streams[i].staged = none
  reservations : ((List.finRange 4).map s.reservation).sum ≤ 128
  queue : s.postQueue.Nodup

/-- The prefetch lists and the slot reads (R14, R137): a ring has at most one slot read ISSUED, and is in flight while it
has one; an ABSENT ring is not in flight; and a list holds at most 4 requests, at most 3 while its ring is in flight. -/
structure State.listsFit (s : State) : Prop where
  one : ∀ (j k : Fin Config.readEntries) e f, (s.reads[j]).isFor (.slot e) = true → (s.reads[k]).isFor (.slot f) = true →
    ringOfEntry e = ringOfEntry f → j = k
  flight : ∀ (j : Fin Config.readEntries) e, (s.reads[j]).isFor (.slot e) = true →
    s.rings[ringOfEntry e].inFlight = true
  absent : ∀ r : RingId, s.rings[r].state = .absent → s.rings[r].inFlight = false
  lists : ∀ i : StreamId, s.streams[i].prefetch.length + (if s.rings[ringOfStream i].inFlight then 1 else 0) ≤ 4

/-- The holding entries of ISSUED transactions: RESERVED under a slot read (R139), POSTING under a completion write
(R146). -/
structure State.entriesHeld (s : State) : Prop where
  slots : ∀ (j : Fin Config.readEntries) e, (s.reads[j]).isFor (.slot e) = true → s.holding[e].state = .reserved
  records : ∀ (j : Fin Config.writeEntries) e, (s.writes[j]).isFor (.completion e) = true → s.holding[e].state = .posting

/-! ## Lanes and streams -/

/-- A lane keeps to the ranges of chapter 3: a receive phase in RUN alone, run count 0..63, error count 0..3,
1..3 header words, and no more than `keep` pixels kept. -/
structure Lane.fits (l : Lane) : Prop where
  phase : l.state = .run ↔ l.phase ≠ .none
  run : l.runCount < 64
  search : l.state ≠ .search → l.runCount = 0
  errors : l.headerErrors < 4
  counted : l.state ≠ .run → l.headerErrors = 0
  header : ∀ words, l.phase = .header words → 1 ≤ words.length ∧ words.length ≤ 3
  payload : ∀ p, l.phase = .payload p → p.kept.length ≤ p.keep

/-- A stream fits its lane and the device: the lane is in OFF unless its enable is on and the device RUNNING
(R59), an enabled stream has an active profile (R65), a frame is in progress only with the lane in RUN (R26),
and the line-gap timer runs with the frame (R45). -/
structure State.streamFits (s : State) (i : StreamId) : Prop where
  lane : s.streams[i].lane.fits
  off : s.streams[i].lane.state = .off ↔ ¬(s.device = .running ∧ s.streams[i].laneEnable = true)
  enabled : s.streams[i].laneEnable = true → s.streams[i].active.isSome = true
  framing : s.streams[i].frame.isSome = true → s.streams[i].lane.state = .run
  timer : s.streams[i].gapTimer.isSome = s.streams[i].frame.isSome

/-! ## Nothing left to do in the event -/

/-- What the rules place in the event at hand has all happened: no capture is drained (R20), no group
resolves (R126, R127), no abort and no stop and no soft reset can end (R169, R197, R198), no waiting command
can start (R155), and every eligible entry is in the post queue (R145). -/
structure State.settled (s : State) : Prop where
  captures : ∀ i c, s.drained i c = false
  groups : ∀ g : GroupId, s.groups[g].resolves = false
  abort : s.abortCanEnd = false
  start : s.canStart = false
  queue : ∀ e, s.eligible e = true → e ∈ s.postQueue
  stop : s.stopEnds = false
  reset : s.resetEnds = false

/-! ## Terms of the claims -/

/-- Read tracker entry `j` is ISSUED with this transaction. -/
abbrev State.reading (s : State) (j : Fin Config.readEntries) (t : Transaction) : Prop := s.reads[j] = .issued t

/-- Write tracker entry `j` is ISSUED with this transaction. -/
abbrev State.writing (s : State) (j : Fin Config.writeEntries) (t : Transaction) : Prop := s.writes[j] = .issued t

/-- Read entry `j` is the lowest FREE one (R178). -/
abbrev State.nextRead (s : State) (j : Fin Config.readEntries) : Prop := s.reads[j] = .free ∧ ∀ k < j, s.reads[k] ≠ .free

/-- Write entry `j` is the lowest FREE one (R178). -/
abbrev State.nextWrite (s : State) (j : Fin Config.writeEntries) : Prop := s.writes[j] = .free ∧ ∀ k < j, s.writes[k] ≠ .free

/-- A read of this owner is ISSUED in read tracker entry `j`. -/
abbrev State.readingFor (s : State) (j : Fin Config.readEntries) (o : Owner) : Prop := (s.reads[j]).isFor o = true

/-- A write of this owner is ISSUED in write tracker entry `j`. -/
abbrev State.writingFor (s : State) (j : Fin Config.writeEntries) (o : Owner) : Prop := (s.writes[j]).isFor o = true

/-- The beats collected of the read in entry `j`, oldest first (R183). -/
def State.collected (s : State) (j : Fin Config.readEntries) : List Beat :=
  match s.reads[j] with
  | .issued t => t.beats
  | .quarantined _ => []
  | .free => []

/-- The beat is the last of the read in entry `j`, every beat of the read is OKAY, and their data are `r` (R183). -/
def State.landsWith (s : State) (j : Fin Config.readEntries) (b : Beat) (r : List Byte) : Prop :=
  b.last = true ∧ (∀ x ∈ s.collected j ++ [b], x.code = .okay) ∧ r = (s.collected j ++ [b]).flatMap (·.data)

/-- The beat is the last of the read in entry `j`, and some beat of the read is not OKAY (R183). -/
def State.failsWith (s : State) (j : Fin Config.readEntries) (b : Beat) : Prop :=
  b.last = true ∧ ∃ x ∈ s.collected j ++ [b], x.code ≠ .okay

/-- Read entry `j` reads the admin slot of holding entry `e`, with no error among its beats so far, and no lower entry
reads an admin slot: the admin ring has at most one read in flight (R137). -/
abbrev State.adminReading (s : State) (j : Fin Config.readEntries) (e : EntryId) : Prop :=
  s.readingFor j (.slot e) ∧ (s.reads[j]).isAdminFetch = true ∧ (∀ k < j, (s.reads[k]).isAdminFetch = false)
    ∧ ∀ x ∈ s.collected j, x.code = .okay

/-- Read tracker entry `j` is FREE, all else unchanged. -/
def State.readFreed (s : State) (j : Fin Config.readEntries) : State := { s with reads := s.reads.set j .free }

/-- Write tracker entry `j` is FREE, all else unchanged. -/
def State.writeFreed (s : State) (j : Fin Config.writeEntries) : State := { s with writes := s.writes.set j .free }

/-- The state in which the admin slot read in entry `j` has landed: the entry FREE, no read of the admin ring
in flight (R141). -/
def State.adminLanded (s : State) (j : Fin Config.readEntries) : State :=
  { s.readFreed j with rings := s.rings.set 0 { s.rings[0] with inFlight := false } }

/-- One stream replaced, all else unchanged. -/
def State.withStream (s : State) (i : StreamId) (x : StreamState) : State := { s with streams := s.streams.set i x }

/-- Holding entry `e` is READY with a report, all else unchanged (R143, R144). -/
def State.withReady (s : State) (e : EntryId) (report : Report) (counted : Bool) : State :=
  { s with holding := s.holding.set e { s.holding[e] with
      state := .ready, report := report, counted := counted, groupStatus := .none } }

/-- The Admin Unit with nothing in execution and its waiting command kept, all else unchanged (R155). -/
def State.adminIdle (s : State) : State := { s with admin := ⟨none, s.admin.waiting, none, none, none⟩ }

/-- The state in which the admin command of entry `e` has completed with a status and a detail, nothing else
changed: its entry READY and counted (R155, R157), no command in execution. -/
def State.adminDone (s : State) (e : EntryId) (tag : Word) (status : Status) (detail : Word) : State :=
  (s.withReady e (.unbound status tag detail) true).adminIdle

/-- Bits of IRQ_STATUS set, the line at the level of R205, all else unchanged. -/
def State.withStatusBits (s : State) (bits : BitVec 5) : State :=
  { s with irqStatus := s.irqStatus ||| bits, irqLine := lineLevel (s.irqStatus ||| bits) s.irqEnable }

/-- The device FAULTED with a cause and FAULT set, all else unchanged (R200). -/
def State.withFault (s : State) (cause : FaultCause) : State :=
  { s.withStatusBits irqFault with device := .faulted, cause := cause }

/-- Every lane is in OFF, with its counts at 0 and no receive phase (R59). -/
abbrev State.allLanesOff (s : State) : Prop := ∀ i : StreamId, s.streams[i].lane = .off

/-- The stream's lane is in RUN, its enable on, and it has this active profile: it is BETWEEN_FRAMES or IN_FRAME
(R26). -/
abbrev State.linked (s : State) (i : StreamId) (p : Profile) : Prop :=
  s.streams[i].active = some p ∧ s.streams[i].laneEnable = true ∧ s.streams[i].lane.state = .run

/-- The state with its streams, holding list, Pairing Store, Group Table and Admin Unit blanked: two states
of one shell agree on the Register Window, the Time Base, the rings, coalescing and the Memory Port. -/
def State.shell (s : State) : State :=
  { s with
    holding := State.reset.holding
    admin := .idle
    streams := State.reset.streams
    pairing := []
    groups := State.reset.groups }

/-- The state with streams, groups, holding entries, rings, the post queue and the Admin Unit blanked: what the
Register Window, the Time Base, coalescing and the Memory Port hold. -/
def State.outside (s : State) : State :=
  { s.shell with rings := State.reset.rings, postQueue := [] }

/-- What a response timeout in `s` leaves, where `u` is `s` with the owner failed and the entry QUARANTINED: `u` with what
belongs to the event; or, where 8 entries were quarantined before, outside FAULTED, `u` put in FAULTED with cause
QUARANTINE, its lanes OFF (R187, R189). -/
def State.quarantinesTo (s r u : State) : Prop :=
  (s.quarantine < 8 ∨ s.device = .faulted → r = u.conclude)
  ∧ (8 ≤ s.quarantine → s.device ≠ .faulted →
    r.allLanesOff ∧ r.outside = (u.withFault .quarantine).outside
    ∧ (u.allLanesOff → r = (u.withFault .quarantine).conclude))

/-! ## Aborts -/

/-- A listed request of stream `i` has finished without a frame, all else unchanged (R16, R24): its entry is PARKED and
its slot finished if it is an unfinished member of a group (R121, R125), and its entry READY otherwise (R144). -/
def State.withOutcome (s : State) (i : StreamId) (q : Request) (status : Status) : State :=
  match q.group with
  | some g =>
    let x := s.groups[g].slots[i]
    if (x.progress = .registered ∨ x.progress = .bound) ∧ x.request.any (fun r => decide (r.entry = q.entry)) = true then
      { s with
        groups := s.groups.set g { s.groups[g] with slots := s.groups[g].slots.set i ⟨.finished, some q, some status⟩ }
        holding := s.holding.set q.entry { s.holding[q.entry] with
          state := .parked, report := .unbound status q.tag 0 } }
    else s.withReady q.entry (.unbound status q.tag 0) q.notify
  | none => s.withReady q.entry (.unbound status q.tag 0) q.notify

/-- The stream has been aborted, its groups not yet broken (R52): every listed request has finished ABORTED, in list
order, the list is empty and the deadline timer stopped; both captures are FLUSHING with ABORTED recorded, the frame in
progress is bound to neither, and their held lines are released (R109) and their buffered lines dropped (R91). -/
def State.streamAborted (s : State) (i : StreamId) : State :=
  let x := s.streams[i]
  { (x.prefetch.foldl (fun u q => u.withOutcome i q .aborted) s).withStream i { x with
      prefetch := []
      deadline := none
      contexts := x.contexts.map fun k => k.map fun k => { k with
        phase := .flushing, flushPending := false, causes := { k.causes with aborted := true } }
      frame := x.frame.map fun f => { f with bound := f.bound.filter fun c => x.contexts[c].isNone }
      buffer := x.buffer.filter fun l => x.contexts[l.context].isNone } with
    pairing := s.pairing.filter fun h => !(h.stream = i && x.contexts[h.context].isSome) }

/-- The row of the table that an admin command has (R155). -/
def AdminOp.command (tag : Word) : AdminOp → Instr
  | .createRing i base log => .createRing tag i base (BitVec.ofNat 8 log)
  | .deleteRing i => .deleteRing tag i
  | .resumeStream i skip => .resumeStream tag i skip
  | .configureStream i on f => .configureStream tag i on f
  | .loadDefects i list count => .loadDefects tag i list (BitVec.ofNat 16 count)
  | .abortStream i => .abortStream tag i
  | .openGroup g mask timeout => .openGroup tag g mask (BitVec.ofNat 16 timeout)
  | .closeGroup g => .closeGroup tag g
  | .readStats i block clear => .readStats tag i block clear

/-! ## Frames that close -/

/-- What a close leaves of its stream, a capture apart (R46): no frame, no line-gap timer, and every close but the
normal one counted. -/
def StreamState.unframed (x : StreamState) (normal : Bool) : StreamState :=
  { x with
    frame := none
    gapTimer := none
    stats := if normal then x.stats else { x.stats with framesTruncated := satInc x.stats.framesTruncated } }

/-- The window rows of a SPLIT capture with exactly one exposure present; no other capture counts rows at a close
(R111). -/
def Capture.loneRows (k : Capture) : Nat :=
  if k.request.assembly = .split then
    (k.rowsLong.filter fun r => !k.rowsShortExposure.contains r).length
      + (k.rowsShortExposure.filter fun r => !k.rowsLong.contains r).length
  else 0

/-- A held line as a long-only row of its capture in the Line Output Buffer (R104). -/
def HeldLine.alone (h : HeldLine) (q : Request) (c : ContextId) : OutputLine where
  context := c
  plane := .one
  row := h.index - q.top
  address := q.buffer + BitVec.ofNat 64 ((h.index - q.top) * q.pitch)
  bytes := convertRow q.format h.pixels
  short := h.short
  damaged := h.damaged
  unpaired := true
  issued := 0

/-- The held lines of a capture, in arrival order (R94). -/
def State.heldBy (s : State) (i : StreamId) (c : ContextId) : List HeldLine := s.pairing.filter (·.ownedBy i c)

/-- The stream's frame has closed, bound to capture `k` of context `c` (R46, R18, R111): the capture is FLUSHING with
`causes`, its lone rows are counted, the lines `moved` have entered the buffer, `flush` says whether its flush is
pending, and `kept` is what stays in the Pairing Store. -/
def State.frameClosed (s : State) (i : StreamId) (c : ContextId) (k : Capture) (causes : Causes) (normal : Bool)
    (moved : List HeldLine) (flush : Bool) (kept : List HeldLine) : State :=
  let x := s.streams[i].unframed normal
  { s.withStream i { x with
      contexts := x.contexts.set c (some { k with
        phase := .flushing
        causes := causes
        flushPending := flush
        counters := { k.counters with unpaired := satIncBy k.loneRows k.counters.unpaired } })
      stats := { x.stats with linesUnpaired := satIncBy k.loneRows x.stats.linesUnpaired }
      buffer := x.buffer ++ moved.map (·.alone k.request c) } with
    pairing := kept }

/-- The frame has closed LINK_LOST: every held line of its capture is released unwritten (R108). -/
def State.frameLost (s : State) (i : StreamId) (c : ContextId) (k : Capture) : State :=
  s.frameClosed i c k { k.causes with linkLost := true } false [] false (s.pairing.filter fun h => !h.ownedBy i c)

/-- The frame has closed normally or TRUNCATED: the held lines of its capture have left for the buffer, lowest line
index first, as far as there is room, and its flush is pending if some stay (R106). -/
def State.frameFlushed (s : State) (i : StreamId) (c : ContextId) (k : Capture) (normal : Bool) : State :=
  let moved := (s.heldBy i c).take (8 - s.streams[i].buffer.length)
  s.frameClosed i c k (if normal then k.causes else { k.causes with truncated := true }) normal moved
    (decide (8 - s.streams[i].buffer.length < (s.heldBy i c).length)) (moved.foldl List.erase s.pairing)

/-- The frame in progress, if there is one, has closed LINK_LOST, with its capture if it is bound to one (R46, R51). -/
def State.linkDropped (s : State) (i : StreamId) : State :=
  match s.streams[i].frame with
  | none => s
  | some f =>
    match f.bound with
    | none => s.withStream i (s.streams[i].unframed false)
    | some c =>
      match s.streams[i].contexts[c] with
      | some k => s.frameLost i c k
      | none => s.withStream i (s.streams[i].unframed false)

/-- The frame `f` in progress is bound to capture `k` of context `c`. -/
structure State.boundTo (s : State) (i : StreamId) (f : Frame) (c : ContextId) (k : Capture) : Prop where
  frame : s.streams[i].frame = some f
  bound : f.bound = some c
  capture : s.streams[i].contexts[c] = some k

/-- Nothing keeps capture `k` of context `c` from flushing as its frame closes: it has recorded neither WRITE_FAULT nor
ABORTED, it holds no line if it is SPLIT, and no other capture of the stream has its flush pending. -/
structure State.flushesAtOnce (s : State) (i : StreamId) (c : ContextId) (k : Capture) : Prop where
  written : k.causes.writeFault = false
  kept : k.causes.aborted = false
  split : k.request.assembly = .split → s.heldBy i c = []
  alone : ∀ d m, d ≠ c → s.streams[i].contexts[d] = some m → m.flushPending = false

end Sys2Proof.Machine
end

