-- ==== Sys2Proof/Certificates/Slice0/Obligations.lean ====
section
/-! DEFINITION. The statements for the provers. A result is written as the state it is, by the updates of
`Safety.lean`: what a statement does not name is unchanged. `conclude` is what the rules place in the same event
(`EventsConclude` says what it does and when it does nothing). -/

open Sys2Proof Sys2Proof.Machine

/-! ## The queue and the Register Window -/

/-- A step is `exec` of the command at the front of the queue, with the queue's rest; with none the block idles
(the model's own queue, log entry 1). -/
def Obligations.StepRunsFront : Prop :=
  ∀ s : State, (s.pending = [] → step s = .next s) ∧
    ∀ c rest, s.pending = c :: rest → step s = exec c { s with pending := rest }

/-- A pin reset sets every piece of state to its reset value, in every state (R199); the queue is the model's. -/
def Obligations.PinResetGivesReset : Prop :=
  (∀ s : State, exec .pinReset s = .next { State.reset with pending := s.pending })
  ∧ State.reset.device = .off ∧ State.reset.cause = .none ∧ State.reset.enable = false
  ∧ State.reset.softReset = false ∧ State.reset.setupAddress = 0 ∧ State.reset.irqStatus = 0
  ∧ State.reset.irqEnable = 0 ∧ State.reset.irqLine = false ∧ State.reset.timeBase = 0
  ∧ (∀ r : RingId, State.reset.rings[r].state = .absent) ∧ State.reset.completion.present = false
  ∧ (∀ e : EntryId, State.reset.holding[e].state = .free) ∧ State.reset.postQueue = []
  ∧ State.reset.fetchRotation = 0 ∧ State.reset.coalescingCount = 0 ∧ State.reset.coalescingTimer = none
  ∧ State.reset.admin.executing = none ∧ State.reset.admin.waiting = none
  ∧ (∀ i : StreamId, State.reset.streams[i] = .reset) ∧ State.reset.pairing = []
  ∧ (∀ g : GroupId, State.reset.groups[g].state = .free) ∧ State.reset.allFree
  ∧ State.reset.quarantine = 0 ∧ State.reset.writeRotation = 0

/-- A write of SOFT_RESET 1 (R198, R191). With the Memory Port idle the soft reset ends in the same event;
otherwise the device is RESETTING, every lane OFF, no entry quarantined, and nothing else in the Register Window,
the Time Base, coalescing and the Memory Port has changed. -/
def Obligations.SoftResetBegins : Prop :=
  ∀ (s : State) (b : Bool), s.device ≠ .resetting →
    (s.allFree → exec (.softReset allStrobes b) s = .next { State.reset with pending := s.pending })
    ∧ (¬s.allFree → ∃ t, exec (.softReset allStrobes b) s = .next t
        ∧ t.outside = { s with
            device := .resetting, softReset := true, quarantine := 0
            reads := s.reads.map TrackerEntry.unquarantined
            writes := s.writes.map TrackerEntry.unquarantined }.outside
        ∧ t.allLanesOff)

/-- The end of an orderly stop (R197) and of a soft reset (R198), and that neither comes before its time. -/
def Obligations.StopAndResetEnd : Prop :=
  ∀ s : State,
    (s.device = .stopping → (∀ e : EntryId, s.holding[e].state = .free) → s.allFree →
      exec .stopCompletes s = .next { State.reset with
        setupAddress := s.setupAddress, irqStatus := irqStopped, irqEnable := s.irqEnable
        irqLine := s.irqEnable.getLsbD 4, pending := s.pending })
    ∧ (¬(s.device = .stopping ∧ (∀ e : EntryId, s.holding[e].state = .free) ∧ s.allFree) →
      exec .stopCompletes s = .next s)
    ∧ (s.device = .resetting → s.allFree →
      exec .softResetEnds s = .next { State.reset with pending := s.pending })
    ∧ (¬(s.device = .resetting ∧ s.allFree) → exec .softResetEnds s = .next s)

/-- ENABLE written 1 in OFF (R195): the setup read is issued at the SETUP address, timed with 255 ms; or, at an
address that cannot be read, the device is FAULTED with cause SETUP_INVALID and nothing is issued (R132). -/
def Obligations.EnableStarts : Prop :=
  ∀ s : State, s.device = .off → s.enable = false → s.allLanesOff →
    (s.setupAddress.toNat % 64 = 0 → s.setupAddress.toNat + 64 ≤ 2 ^ 64 → ∀ j, s.nextRead j →
      exec (.enable allStrobes true) s = .next { s with
        enable := true, device := .starting, enableDropped := false
        reads := s.reads.set j (.issued ⟨.setupRead, some .deviceStart, s.setupAddress, 64, s.timeBase, 255, []⟩)
        handed := some ⟨.read, j, s.setupAddress, 64, []⟩ })
    ∧ (s.setupAddress.toNat % 64 ≠ 0 → exec (.enable allStrobes true) s = .next
      ({ s with enable := true, enableDropped := false }.withFault .setupInvalid))

/-- ENABLE written 0 in RUNNING (R196): the device is STOPPING and every stream is aborted (R52): its list empties, its
captures record ABORTED, their held lines are released (R109) and their buffered lines dropped (R91), and no group stays
OPEN or FIXED (R124). The state is written out: every lane goes to OFF, its frame in progress closing LINK_LOST (R51),
the waiting admin command is READY with ABORTED (R158), each stream is as `State.streamAborted` has it, every listed
request READY with ABORTED, or PARKED with it as a group's member, and then every group breaks (`GroupResolves` says
how); that the groups break last is the model's choice (log entry 9). With an entry of the Memory Port not FREE the stop
does not end in that event. -/
def Obligations.EnableStops : Prop :=
  ∀ s : State, s.device = .running → s.enable = true → (∀ i, s.streamFits i) →
    (¬s.allFree → ∃ t, exec (.enable allStrobes false) s = .next t
      ∧ t.outside = { s with device := .stopping, enable := false }.outside
      ∧ t.allLanesOff ∧ t.admin.waiting = none
      ∧ (∀ i : StreamId, t.streams[i].frame = none ∧ t.streams[i].prefetch = [] ∧ t.streams[i].deadline = none
          ∧ (∀ (c : ContextId) k, t.streams[i].contexts[c] = some k → k.phase = .flushing ∧ k.causes.aborted = true)
          ∧ ∀ l ∈ t.streams[i].buffer, s.streams[i].contexts[l.context] = none)
      ∧ (∀ h ∈ t.pairing, s.streams[h.stream].contexts[h.context] = none)
      ∧ ∀ g : GroupId, t.groups[g].state ≠ .opened ∧ t.groups[g].state ≠ .fixed)
    ∧ ∀ v u : State, v = (List.finRange 4).foldl State.linkDropped { s with enable := false, device := .stopping } →
      u = { v with streams := v.streams.map fun x =>
        { x with lane := .off, relink := x.relink || decide (x.lane.state = .run) } } →
      (s.admin.waiting = none → exec (.enable allStrobes false) s = .next
        ((List.finRange 8).foldl State.breakGroup ((List.finRange 4).foldl State.streamAborted u)).conclude)
      ∧ ∀ cmd : AdminCommand, s.admin.waiting = some cmd → exec (.enable allStrobes false) s = .next
        ((List.finRange 8).foldl State.breakGroup ((List.finRange 4).foldl State.streamAborted
          { u.withReady cmd.entry (.unbound .aborted cmd.tag 0) true with
            admin := { s.admin with waiting := none } })).conclude

/-- Register writes that have no effect, or no effect but to be held: a strobe clear (R203), a CONTROL write in
RESETTING, an ENABLE that does not change, and an ENABLE written in STARTING, STOPPING or FAULTED (R194); that it was
written 0 in STARTING is kept, and a 1 written after it is no change to that (R193, R194, R195). -/
def Obligations.WritesWithoutEffect : Prop :=
  ∀ (s : State) (st : Strobes) (v : Bool) (w o : Word),
    (st ≠ allStrobes → ∀ c ∈ [Instr.enable st v, .softReset st v, .producer st w, .consumed st w, .irqStatus st w,
        .irqEnable st w, .registerWrite o st w], exec c s = .next s)
    ∧ (s.device = .resetting → exec (.enable st v) s = .next s ∧ exec (.softReset st v) s = .next s)
    ∧ (s.enable = v → exec (.enable st v) s = .next s)
    ∧ (s.device = .stopping ∨ s.device = .faulted ∨ (s.device = .starting ∧ v = true) →
        exec (.enable allStrobes v) s = .next { s with enable := v })
    ∧ (s.device = .starting → s.enable = true →
        exec (.enable allStrobes false) s = .next { s with enable := false, enableDropped := true })

/-- A PRODUCER write sets the producer value of the ring its selector names, or is ignored with WRITE_IGNORED set:
no such ring, an ABSENT ring, or a count more than the ring's slots ahead of its fetch count (R135). A CONSUMED write
moves the consumed value, or is ignored likewise: no completion ring, or a count that is not among the records posted
and not consumed (R148). -/
def Obligations.RingCountWrites : Prop :=
  ∀ (s : State) (w : Word),
    (∀ r : RingId, (w.extractLsb' 16 8).toNat = r.val →
      exec (.producer allStrobes w) s = .next
        (if s.rings[r].state = .absent ∨ s.rings[r].slots < (w.setWidth 16 - s.rings[r].fetched).toNat then
          s.withStatusBits irqWriteIgnored
        else { s with rings := s.rings.set r { s.rings[r] with producer := w.setWidth 16 } }))
    ∧ (4 < (w.extractLsb' 16 8).toNat → exec (.producer allStrobes w) s = .next (s.withStatusBits irqWriteIgnored))
    ∧ exec (.consumed allStrobes w) s = .next
      (if s.completion.present = false
          ∨ (s.completion.post - s.completion.consumed).toNat < (w.setWidth 16 - s.completion.consumed).toNat then
        s.withStatusBits irqWriteIgnored
      else { s with completion := { s.completion with consumed := w.setWidth 16 } })

/-- A write of IRQ_STATUS clears the bits written 1 (R204), a write of IRQ_ENABLE sets every enable bit (R205), and
the interrupt line is asserted afterwards just when some bit is set in both (R205). -/
def Obligations.InterruptRegisters : Prop :=
  ∀ (s : State) (w : Word),
    (∃ line, exec (.irqStatus allStrobes w) s = .next { s with
        irqStatus := s.irqStatus &&& ~~~(w.setWidth 5), irqLine := line }
      ∧ (line = true ↔ ∃ k < 5, s.irqStatus.getLsbD k = true ∧ w.getLsbD k = false ∧ s.irqEnable.getLsbD k = true))
    ∧ (∃ line, exec (.irqEnable allStrobes w) s = .next { s with irqEnable := w.setWidth 5, irqLine := line }
      ∧ (line = true ↔ ∃ k < 5, s.irqStatus.getLsbD k = true ∧ w.getLsbD k = true))

/-- A write by offset (R203, R216): the two halves of the SETUP address are set and read back, a register with a
command of its own takes that command, and any other offset is ignored. A read gives the fields of the register at
their bit positions, the device state and the cause by their codes, and 0 elsewhere (R203, R216, R217); the revision
in ID is the first one's (log entry 12). -/
def Obligations.RegisterAccess : Prop :=
  ∀ (s : State) (w o : Word),
    (∃ t, exec (.registerWrite 0x0C#32 allStrobes w) s = .next t ∧ t = { s with setupAddress := t.setupAddress }
      ∧ t.readRegister 0x0C#32 = w ∧ t.readRegister 0x10#32 = s.readRegister 0x10#32)
    ∧ (∃ t, exec (.registerWrite 0x10#32 allStrobes w) s = .next t ∧ t = { s with setupAddress := t.setupAddress }
      ∧ t.readRegister 0x10#32 = w ∧ t.readRegister 0x0C#32 = s.readRegister 0x0C#32)
    ∧ exec (.registerWrite 0x04#32 allStrobes w) s = exec (if w.getLsbD 1 then .softReset allStrobes (w.getLsbD 0)
        else .enable allStrobes (w.getLsbD 0)) s
    ∧ exec (.registerWrite 0x14#32 allStrobes w) s = exec (.producer allStrobes w) s
    ∧ exec (.registerWrite 0x18#32 allStrobes w) s = exec (.consumed allStrobes w) s
    ∧ exec (.registerWrite 0x1C#32 allStrobes w) s = exec (.irqStatus allStrobes w) s
    ∧ exec (.registerWrite 0x20#32 allStrobes w) s = exec (.irqEnable allStrobes w) s
    ∧ (o ∉ [0x04#32, 0x0C#32, 0x10#32, 0x14#32, 0x18#32, 0x1C#32, 0x20#32] →
        exec (.registerWrite o allStrobes w) s = .next s)
    ∧ s.readRegister 0x00#32 = 0x4EB20401#32
    ∧ (s.readRegister 0x04#32).toNat = s.enable.toNat + 2 * s.softReset.toNat
    ∧ (s.readRegister 0x08#32).toNat =
      [DeviceState.off, .starting, .running, .stopping, .resetting, .faulted].idxOf s.device
        + 256 * [FaultCause.none, .setupInvalid, .setupRead, .completionWrite, .adminFetch, .quarantine].idxOf s.cause
    ∧ s.readRegister 0x14#32 = 0
    ∧ (s.readRegister 0x18#32).toNat = s.completion.consumed.toNat + 65536 * s.completion.post.toNat
    ∧ (s.readRegister 0x1C#32).toNat = s.irqStatus.toNat ∧ (s.readRegister 0x20#32).toNat = s.irqEnable.toNat
    ∧ s.readRegister 0x24#32 = s.timeBase
    ∧ (o ∉ [0x00#32, 0x04#32, 0x08#32, 0x0C#32, 0x10#32, 0x14#32, 0x18#32, 0x1C#32, 0x20#32, 0x24#32] →
      s.readRegister o = 0)

/-- The Time Base rises by 1 at a tick, in every device state, and wraps at the end (R202). -/
def Obligations.TimeBaseTicks : Prop :=
  ∀ s : State, ∃ t, exec .timeBaseTick s = .next { s with timeBase := t }
    ∧ t.toNat = (if s.timeBase.toNat = 4294967295 then 0 else s.timeBase.toNat + 1)

/-! ## Rings and the Completion Holding List -/

/-- The setup read completes (R132, R133, R183, R195): with a valid record and ENABLE still 1 the device is RUNNING with
the record's values; with ENABLE written 0 during STARTING, also where it was written 1 again since (R193, R194), and
nothing else to do it passes to OFF in the same event, STOPPED set (R197); with an invalid record or an error it is FAULTED
with its cause and no setup value is taken. A record is valid just when its fields lie in their ranges, both rings end
by 2^64 and its remaining bytes are zero (R132, R212). -/
def Obligations.SetupReadCompletes : Prop :=
  (∀ (s : State) j (b : Beat), s.readingFor j .deviceStart → s.device = .starting →
    (∀ r v, s.landsWith j b r → readSetup r = some v → (∀ i : StreamId, s.streams[i].laneEnable = false) →
      (s.enable = true → s.enableDropped = false → exec (.setupReadResponse j b) s = .next { s.readFreed j with
          device := .running, setup := some v
          rings := s.rings.set 0 ⟨.active, v.adminBase, v.adminSlots, 0, 0, false⟩
          completion := ⟨true, v.completionBase, v.completionSlots, 0, 0, true⟩
          coalescingCount := 0, coalescingTimer := none }.conclude)
      ∧ (s.enable = false ∨ s.enableDropped = true → (s.readFreed j).allFree → (∀ e : EntryId, s.holding[e] = .free) → s.admin = .idle →
          (∀ i : StreamId, s.streams[i] = .reset) → (∀ g : GroupId, s.groups[g] = .free) →
          exec (.setupReadResponse j b) s = .next { State.reset with
            setupAddress := s.setupAddress, irqStatus := irqStopped, irqEnable := s.irqEnable
            irqLine := s.irqEnable.getLsbD 4, pending := s.pending }))
    ∧ (s.allLanesOff →
      (∀ r, s.landsWith j b r → readSetup r = none →
        exec (.setupReadResponse j b) s = .next ((s.readFreed j).withFault .setupInvalid).conclude)
      ∧ (s.failsWith j b → exec (.setupReadResponse j b) s = .next ((s.readFreed j).withFault .setupRead).conclude)))
  ∧ ∀ (r : List Byte) (v : Setup), readSetup r = some v ↔
    v = ⟨BitVec.ofNat 64 (leField r 0 8), 2 ^ byteAt r 8, BitVec.ofNat 64 (leField r 16 8), 2 ^ byteAt r 9, byteAt r 10,
      leField r 12 2, byteAt r 11⟩
    ∧ leField r 0 8 % 64 = 0 ∧ 2 ≤ byteAt r 8 ∧ byteAt r 8 ≤ 8 ∧ 2 ≤ byteAt r 9 ∧ byteAt r 9 ≤ 12
    ∧ 1 ≤ byteAt r 10 ∧ byteAt r 10 ≤ 64 ∧ 1 ≤ byteAt r 11 ∧ leField r 12 2 ≤ 1023 ∧ leField r 16 8 % 64 = 0
    ∧ leField r 0 8 + 64 * 2 ^ byteAt r 8 ≤ 2 ^ 64 ∧ leField r 16 8 + 32 * 2 ^ byteAt r 9 ≤ 2 ^ 64
    ∧ byteAt r 14 = 0 ∧ byteAt r 15 = 0 ∧ ∀ k, 24 ≤ k → k < 64 → byteAt r k = 0

/-- A fetch grant (R138, R139): the first ring from the rotation on that may fetch has its next slot read into a
RESERVED entry; with no such ring or no FREE read entry nothing happens. The entry taken is the lowest (log entry 10),
and its place is behind every entry of the ring in use. A ring may fetch in RUNNING, when it is ACTIVE, has a pending
request, no read in flight and a FREE entry, and its stream's list holds fewer than 4 (R137). The response timeout of
this and every other transaction but the setup read is the setup record's (R133, R177). -/
def Obligations.FetchGranted : Prop :=
  ∀ s : State,
    (∀ (r : RingId) (e : EntryId) (j : Fin Config.readEntries) (slot : Nat),
      s.device = .running → s.rings[r].state = .active → s.rings[r].producer ≠ s.rings[r].fetched →
      s.rings[r].inFlight = false → s.holding[e].state = .free → ringOfEntry e = r →
      (∀ f < e, ringOfEntry f = r → s.holding[f].state ≠ .free) →
      (∀ i, ringOfStream i = r → s.streams[i].prefetch.length < 4) →
      (∀ q : RingId, (q - s.fetchRotation).val < (r - s.fetchRotation).val → s.mayFetch q = false) →
      s.nextRead j → slot = s.rings[r].fetched.toNat % s.rings[r].slots →
      exec .fetchGrant s = .next { s with
        holding := s.holding.set e { HoldingEntry.free with
          state := .reserved, order := s.nextOrder r, slotIndex := slot }
        rings := s.rings.set r { s.rings[r] with fetched := s.rings[r].fetched + 1, inFlight := true }
        fetchRotation := r + 1
        reads := s.reads.set j (.issued ⟨.slotFetch, some (.slot e), s.rings[r].base + BitVec.ofNat 64 (64 * slot), 64,
          s.timeBase, s.responseTimeout, []⟩)
        handed := some ⟨.read, j, s.rings[r].base + BitVec.ofNat 64 (64 * slot), 64, []⟩ })
    ∧ ((∀ r, s.mayFetch r = false) ∨ (∀ j : Fin Config.readEntries, s.reads[j] ≠ .free) →
      exec .fetchGrant s = .next s)
    ∧ (∀ e : EntryId, s.holding[e].state ≠ .free → s.holding[e].order < s.nextOrder (ringOfEntry e))
    ∧ (∀ r : RingId, s.mayFetch r = true ↔
      s.device = .running ∧ s.rings[r].state = .active ∧ s.rings[r].producer ≠ s.rings[r].fetched
      ∧ s.rings[r].inFlight = false ∧ (∃ e, ringOfEntry e = r ∧ s.holding[e].state = .free)
      ∧ ∀ i, ringOfStream i = r → s.streams[i].prefetch.length < 4)
    ∧ ∀ v : Setup, s.setup = some v → s.responseTimeout = v.responseTimeout

/-- A slot read lands with a valid request that nothing keeps off its list (R140, R183, R14, R15): it joins the tail, and
as head of an empty list it is WAITING with its deadline running, or is a MARK that finishes OK. A CAPTURE that names
a group registers with it first (R116, R117): registered in an OPEN or FIXED entry that names its stream and has its
slot empty, finished GROUP_BROKEN and PARKED in a BROKEN one, and otherwise INVALID. -/
def Obligations.SlotJoinsList : Prop :=
  ∀ (s : State) j e i b r q, s.readingFor j (.slot e) → s.landsWith j b r → ringOfEntry e = ringOfStream i →
    s.device = .running → s.beingAborted i = false → s.rings[ringOfStream i].state ≠ .halted → validateRequest e r = some q →
    ∀ l : State, l = { s.readFreed j with
      rings := s.rings.set (ringOfStream i) { s.rings[ringOfStream i] with inFlight := false } } →
    (s.streams[i].prefetch ≠ [] → exec (.slotReadLands j b) s = .next
      (l.withStream i { s.streams[i] with prefetch := s.streams[i].prefetch ++ [q] }).conclude)
    ∧ (s.streams[i].prefetch = [] → q.kind = .capture → q.group = none → exec (.slotReadLands j b) s = .next
      (l.withStream i { s.streams[i] with
        prefetch := [q], deadline := if q.deadline = 0 then none else some s.timeBase }).conclude)
    ∧ (s.streams[i].prefetch = [] → q.kind = .mark → exec (.slotReadLands j b) s = .next
      ((l.withStream i { s.streams[i] with deadline := none }).withReady e (.unbound .ok q.tag 0) q.notify).conclude)
    ∧ (∀ (g : GroupId) (x : Group), s.streams[i].prefetch = [] → q.kind = .capture → q.group = some g →
      s.groups[g] = x →
      (x.state = .free ∨ x.mask[i] = false ∨ x.slots[i].progress ≠ .empty → exec (.slotReadLands j b) s = .next
        ((l.withStream i { s.streams[i] with deadline := none }).withReady e (.unbound .invalid q.tag 0) q.notify).conclude)
      ∧ (x.mask[i] = true → x.slots[i].progress = .empty →
        (x.state = .opened ∨ x.state = .fixed → exec (.slotReadLands j b) s = .next
          { l.withStream i { s.streams[i] with
              prefetch := [q], deadline := if q.deadline = 0 then none else some s.timeBase } with
            groups := s.groups.set g { x with slots := x.slots.set i ⟨.registered, some q, none⟩ } }.conclude)
        ∧ (x.state = .broken → exec (.slotReadLands j b) s = .next
          { l.withStream i { s.streams[i] with deadline := none } with
            groups := s.groups.set g { x with slots := x.slots.set i ⟨.finished, some q, some .groupBroken⟩ }
            holding := s.holding.set e { s.holding[e] with
              state := .parked, report := .unbound .groupBroken q.tag 0 } }.conclude)))

/-- A slot read lands with data that joins no list (R140, R12): discarded in FAULTED; ABORTED in STOPPING, for a
stream being aborted and for a HALTED ring, counted as the notify bit of its record says (the model's choice, log entry
13); INVALID for a record that fails validation. A record passes validation just when it is a MARK with nothing else
set but its tag and notify, or a CAPTURE with every field in its range, its window and buffer fitting together and its
remaining bytes zero (R12, R209). -/
def Obligations.SlotFinishes : Prop :=
  (∀ (s : State) j e i b r, s.readingFor j (.slot e) → s.landsWith j b r → ringOfEntry e = ringOfStream i →
    ∀ l : State, l = { s.readFreed j with
      rings := s.rings.set (ringOfStream i) { s.rings[ringOfStream i] with inFlight := false } } →
    (s.device = .faulted → exec (.slotReadLands j b) s = .next l.conclude)
    ∧ (s.device ≠ .faulted → s.device ≠ .resetting →
        s.device = .stopping ∨ s.beingAborted i = true ∨ s.rings[ringOfStream i].state = .halted →
        exec (.slotReadLands j b) s = .next ({ l with admin := { s.admin with
            abort := s.admin.abort.map fun a : Abort => if a.stream = i then { a with count := a.count + 1 } else a } }.withReady e
          (.unbound .aborted (slotTag r) 0) (slotNotify r)).conclude)
    ∧ (s.device = .running → s.beingAborted i = false → s.rings[ringOfStream i].state ≠ .halted →
        validateRequest e r = none → exec (.slotReadLands j b) s = .next
          (l.withReady e (.unbound .invalid (slotTag r) 0) (slotNotify r)).conclude))
  ∧ ∀ (e : EntryId) (r : List Byte) (row top rows left cols pitch buffer length plane2 : Nat),
    top = leField r 14 2 → rows = leField r 16 2 → left = leField r 18 2 → cols = leField r 20 2 →
    pitch = leField r 24 4 → buffer = leField r 32 8 → length = leField r 40 8 → plane2 = leField r 48 8 →
    row = (if byteAt r 2 = 0 then 2 * cols else if byteAt r 2 = 1 then cols else cols * 3 / 2) →
    (validateRequest e r ≠ none ↔
      (byteAt r 0 = 2 ∧ (byteAt r 11 = 0 ∨ byteAt r 11 = 8)
        ∧ ∀ k, 1 ≤ k → k < 64 → ¬(4 ≤ k ∧ k < 8) → k ≠ 11 → byteAt r k = 0)
      ∨ (byteAt r 0 = 1 ∧ byteAt r 1 ≤ 2 ∧ byteAt r 2 ≤ 2 ∧ byteAt r 3 ≤ 1
        ∧ (byteAt r 3 = 0 → leField r 8 2 = 0) ∧ byteAt r 10 ≤ 8 ∧ (byteAt r 10 ≠ 0 → byteAt r 3 = 0)
        ∧ byteAt r 11 < 16
        ∧ top ≤ 16383 ∧ 1 ≤ rows ∧ rows ≤ 16384 ∧ top + rows ≤ 16384
        ∧ left ≤ 4088 ∧ left % 8 = 0 ∧ 8 ≤ cols ∧ cols ≤ 4096 ∧ cols % 8 = 0 ∧ left + cols ≤ 4096
        ∧ pitch % 64 = 0 ∧ row ≤ pitch ∧ pitch ≤ 1048512
        ∧ buffer % 64 = 0 ∧ pitch * (rows - 1) + row ≤ length ∧ buffer + length ≤ 2 ^ 64
        ∧ (byteAt r 1 = 2 → plane2 ≠ 0 ∧ plane2 % 64 = 0 ∧ plane2 + length ≤ 2 ^ 64)
        ∧ (byteAt r 1 ≠ 2 → plane2 = 0)
        ∧ ∀ k, k = 22 ∨ k = 23 ∨ (28 ≤ k ∧ k < 32) ∨ (56 ≤ k ∧ k < 64) → byteAt r k = 0))

/-- A slot read fails (R142, R183): a stream request finishes FETCH_FAULT and its ring is HALTED; a failed read
of the admin ring puts the device in FAULTED with cause ADMIN_FETCH. -/
def Obligations.SlotReadFails : Prop :=
  ∀ (s : State) j e b, s.readingFor j (.slot e) → s.failsWith j b → s.device = .running ∨ s.device = .stopping →
    (∀ i, ringOfEntry e = ringOfStream i → s.rings[ringOfStream i].state = .active ∨ s.rings[ringOfStream i].state = .halted →
      exec (.slotReadFails j b) s = .next ({ s.readFreed j with
        rings := s.rings.set (ringOfStream i) { s.rings[ringOfStream i] with state := .halted, inFlight := false }
        }.withReady e (.unbound .fetchFault 0 0) true).conclude)
    ∧ (ringOfEntry e = 0 → ∃ t, exec (.slotReadFails j b) s = .next t ∧ t.allLanesOff
        ∧ t.outside = ((s.readFreed j).withFault .adminFetch).outside)

/-- An admin slot lands (R141, R155, R156, R158): the command waits behind the one in execution, finishes ABORTED in
STOPPING, is discarded in FAULTED, and a malformed one that starts completes INVALID. A well-formed one is the command of
its row, and starts if none is in execution: it is in execution and carried out (R155, R156). The waiting command starts once
none is in execution, in RUNNING alone: it is carried out as the command in execution. -/
def Obligations.AdminSlotLands : Prop :=
  (∀ (s : State) j e b r, s.adminReading j e → s.landsWith j b r →
    (∀ x, s.device = .running → s.admin.executing = some x → exec (.adminSlotLands j b) s = .next
      { s.adminLanded j with admin := { s.admin with waiting := some ⟨e, slotTag r, readAdminOp r⟩ } }.conclude)
    ∧ (s.device = .stopping → exec (.adminSlotLands j b) s = .next
      ((s.adminLanded j).withReady e (.unbound .aborted (slotTag r) 0) true).conclude)
    ∧ (s.device = .faulted → exec (.adminSlotLands j b) s = .next (s.adminLanded j).conclude)
    ∧ (s.device = .running → s.admin.executing = none → readAdminOp r = none →
      exec (.adminSlotLands j b) s = .next ((s.adminLanded j).adminDone e (slotTag r) .invalid 0).conclude)
    ∧ (∀ op, readAdminOp r = some op →
      exec (.adminSlotLands j b) s = exec (op.command (slotTag r)) s
      ∧ (s.device = .running → s.admin.executing = none → exec (.adminSlotLands j b) s = .next
        ({ s.adminLanded j with admin := { s.admin with executing := some ⟨e, slotTag r, some op⟩ } }.run (some op)).conclude)))
  ∧ ∀ s : State,
    (∀ cmd : AdminCommand, s.admin.executing = none → s.admin.waiting = some cmd → s.device = .running →
      exec .adminCommandStart s = .next
        ({ s with admin := { s.admin with executing := some cmd, waiting := none } }.run cmd.op).conclude
      ∧ (cmd.op = none → exec .adminCommandStart s = .next
        ({ s with admin := ⟨none, none, none, none, none⟩ }.withReady cmd.entry (.unbound .invalid cmd.tag 0) true).conclude))
    ∧ (s.admin.executing ≠ none ∨ s.admin.waiting = none ∨ s.device ≠ .running →
      exec .adminCommandStart s = .next s)

/-- The completion writer issues the record at the head of the post queue to the next slot of the completion ring,
and the lap flag turns with the last slot (R146, R147, R182). Nothing happens with an empty queue, a full completion
ring or no FREE write entry, in a device that is neither RUNNING nor STOPPING (R146, R153), and when the turn is another
ready requester's (R182). -/
def Obligations.PostIssuesRecord : Prop :=
  ∀ s : State,
    (∀ (e : EntryId) (rest : List EntryId) (j : Fin Config.writeEntries) (slot : Nat) (a : Addr) (h : HoldingEntry),
      s.device = .running ∨ s.device = .stopping → s.postQueue = e :: rest →
      (s.completion.post - s.completion.consumed).toNat < s.completion.slots →
      (∀ q : RequesterId, (q - s.writeRotation).val < (0 - s.writeRotation : RequesterId).val →
        s.requesterReady q = false) →
      s.nextWrite j → slot = s.completion.post.toNat % s.completion.slots →
      a = s.completion.base + BitVec.ofNat 64 (32 * slot) →
      h = { s.holding[e] with state := .posting, completionSlot := slot } →
      exec .post s = .next { s with
        holding := s.holding.set e h, postQueue := rest, writeRotation := 1
        completion := { s.completion with
          post := s.completion.post + 1
          nextLap := if slot + 1 = s.completion.slots then !s.completion.nextLap else s.completion.nextLap }
        writes := s.writes.set j (.issued ⟨.completionWrite, some (.completion e), a, 32, s.timeBase, s.responseTimeout, []⟩)
        handed := some ⟨.write, j, a, 32, completionRecord (ringOfEntry e) h s.completion.nextLap⟩ }.enqueue)
    ∧ (s.postQueue = [] ∨ s.completion.slots ≤ (s.completion.post - s.completion.consumed).toNat
        ∨ (∀ j : Fin Config.writeEntries, s.writes[j] ≠ .free)
        ∨ (s.device ≠ .running ∧ s.device ≠ .stopping)
        ∨ (∃ q : RequesterId, (q - s.writeRotation).val < (0 - s.writeRotation : RequesterId).val
          ∧ s.requesterReady q = true) →
      exec .post s = .next s)

/-- A completion write is answered: OK frees its entry, and a counted record is taken into coalescing, setting POSTED
at the threshold (R150, R151); an error puts the device in FAULTED with cause COMPLETION_WRITE, and a lane that was in
RUN has its frame closed LINK_LOST, the held lines of its capture released (R51, R108, R200). The coalescing timer
runs out (R152): POSTED is set, the count is 0 and the timer stops; before its time, or with no timer, nothing
happens. -/
def Obligations.CompletionAnswered : Prop :=
  (∀ (s : State) j e, s.writingFor j (.completion e) → s.device ≠ .resetting →
    ∀ f : State, f = { s.writeFreed j with holding := s.holding.set e .free } →
    (s.holding[e].counted = false → exec (.completionWriteAck j) s = .next f.conclude)
    ∧ (∀ v, s.holding[e].counted = true → s.setup = some v →
        (v.threshold ≤ s.coalescingCount + 1 → exec (.completionWriteAck j) s = .next
          ({ f with coalescingCount := 0, coalescingTimer := none }.withStatusBits irqPosted).conclude)
        ∧ (s.coalescingCount + 1 < v.threshold → exec (.completionWriteAck j) s = .next
          { f with
            coalescingCount := s.coalescingCount + 1
            coalescingTimer := if s.coalescingCount = 0 ∧ s.coalescingTimer = none ∧ v.coalescingTime ≠ 0
              then some s.timeBase else s.coalescingTimer }.conclude))
    ∧ (∀ code, s.device ≠ .faulted → ∃ t, exec (.completionWriteError j code) s = .next t ∧ t.allLanesOff
        ∧ t.outside = ((s.writeFreed j).withFault .completionWrite).outside)
    ∧ ∀ code i fr c k, s.device ≠ .faulted → s.boundTo i fr c k → s.streams[i].lane.state = .run →
      (∀ m : StreamId, m ≠ i → s.streams[m].lane = .off) →
      exec (.completionWriteError j code) s = .next (((((s.writeFreed j).withStream i { s.streams[i] with
        lane := .off, relink := true }).frameLost i c k)).withFault .completionWrite).conclude)
  ∧ ∀ s : State,
    (∀ start v, s.coalescingTimer = some start → s.setup = some v →
      exec .coalescingTimerRunsOut s = .next
        (if v.coalescingTime ≤ (s.timeBase - start).toNat then
          { s with coalescingCount := 0, coalescingTimer := none }.withStatusBits irqPosted else s))
    ∧ (s.coalescingTimer = none → exec .coalescingTimerRunsOut s = .next s)


/-! ## The Admin Unit -/

/-- CREATE_RING makes an ABSENT ring ACTIVE, empty, at its base and size, and completes OK; any other ring, size or
base is INVALID (R159). RESUME_STREAM makes a HALTED ring ACTIVE; with skip its pending requests are skipped and
counted in the detail; a ring that is not HALTED is INVALID (R161). -/
def Obligations.CreateAndResumeRing : Prop :=
  (∀ (s : State) j e tag i base log, s.adminReading j e → s.device = .running → s.admin.executing = none →
    exec (.createRing tag i base log) s = .next
      (if s.rings[ringOfStream i].state = .absent ∧ 2 ≤ log.toNat ∧ log.toNat ≤ 10 ∧ base.toNat % 64 = 0
          ∧ base.toNat + 64 * 2 ^ log.toNat ≤ 2 ^ 64 then
        ({ s.adminLanded j with
          rings := (s.adminLanded j).rings.set (ringOfStream i) ⟨.active, base, 2 ^ log.toNat, 0, 0, false⟩
          }.adminDone e tag .ok 0).conclude
      else ((s.adminLanded j).adminDone e tag .invalid 0).conclude))
  ∧ ∀ (s : State) j e tag i skip, s.adminReading j e → s.device = .running → s.admin.executing = none →
    exec (.resumeStream tag i skip) s = .next
      (if s.rings[ringOfStream i].state = .halted then
        if skip then
          ({ s.adminLanded j with
            rings := (s.adminLanded j).rings.set (ringOfStream i) { s.rings[ringOfStream i] with
              state := .active, fetched := s.rings[ringOfStream i].producer } }.adminDone e tag .ok
            (BitVec.ofNat 32 (s.rings[ringOfStream i].producer - s.rings[ringOfStream i].fetched).toNat)).conclude
        else
          ({ s.adminLanded j with
            rings := (s.adminLanded j).rings.set (ringOfStream i) { s.rings[ringOfStream i] with state := .active }
            }.adminDone e tag .ok 0).conclude
      else ((s.adminLanded j).adminDone e tag .invalid 0).conclude)

/-- DELETE_RING makes a ring ABSENT whose holding entries are all FREE; an ABSENT ring is INVALID and one with an
entry in use BUSY (R160). With no OPEN or FIXED group naming the stream nothing else changes, and otherwise none
names it afterwards (R124). -/
def Obligations.DeleteRing : Prop :=
  ∀ (s : State) j e tag i, s.adminReading j e → s.device = .running → s.admin.executing = none →
    (s.rings[ringOfStream i].state = .absent →
      exec (.deleteRing tag i) s = .next ((s.adminLanded j).adminDone e tag .invalid 0).conclude)
    ∧ (s.rings[ringOfStream i].state ≠ .absent → (∃ f, ringOfEntry f = ringOfStream i ∧ s.holding[f].state ≠ .free) →
      exec (.deleteRing tag i) s = .next ((s.adminLanded j).adminDone e tag .busy 0).conclude)
    ∧ (s.rings[ringOfStream i].state ≠ .absent → (∀ f, ringOfEntry f = ringOfStream i → s.holding[f].state = .free) →
      ((∀ g : GroupId, s.groups[g].mask[i] = true → s.groups[g].state ≠ .opened ∧ s.groups[g].state ≠ .fixed) →
        exec (.deleteRing tag i) s = .next ({ s.adminLanded j with
          rings := (s.adminLanded j).rings.set (ringOfStream i) .absent }.adminDone e tag .ok 0).conclude)
      ∧ (s.admin.waiting = none → ∃ t, exec (.deleteRing tag i) s = .next t ∧ t.outside = (s.adminLanded j).outside
        ∧ t.rings = (s.adminLanded j).rings.set (ringOfStream i) .absent
        ∧ ∀ g : GroupId, t.groups[g].mask[i] = true → t.groups[g].state ≠ .opened ∧ t.groups[g].state ≠ .fixed))

/-- CONFIGURE_STREAM (R162, R163, R28, R29): a profile out of range is INVALID and a quota that does not fit is
NO_RESOURCE; otherwise it is the active profile if there is none and else the staged one. A lane enable that goes on
starts the lane in SEARCH; one that goes off puts it in OFF, and from RUN the relink is pending and a frame in progress
closes LINK_LOST, the held lines of its capture released (R51, R108). -/
def Obligations.ConfigureStream : Prop :=
  (∀ (s : State) j e tag i on f, s.adminReading j e → s.device = .running → s.admin.executing = none →
    (profileOf f = none →
      exec (.configureStream tag i on f) s = .next ((s.adminLanded j).adminDone e tag .invalid 0).conclude)
    ∧ (∀ p, profileOf f = some p →
      (128 < max (quotaOf s.streams[i].active) (max p.quota (s.heldCount i)) + s.otherReservations i →
        exec (.configureStream tag i on f) s = .next ((s.adminLanded j).adminDone e tag .noResource 0).conclude)
      ∧ (max (quotaOf s.streams[i].active) (max p.quota (s.heldCount i)) + s.otherReservations i ≤ 128 →
        ∀ x : StreamState, x = (if s.streams[i].active = none then
            { s.streams[i] with active := some p, settle := p.settleFrames } else { s.streams[i] with staged := some p }) →
        (on = s.streams[i].laneEnable → exec (.configureStream tag i on f) s = .next
          (((s.adminLanded j).withStream i x).adminDone e tag .ok 0).conclude)
        ∧ (on = true → s.streams[i].laneEnable = false → s.streams[i].lane.state = .off →
          exec (.configureStream tag i on f) s = .next
            (((s.adminLanded j).withStream i { x with laneEnable := true, lane := ⟨.search, 0, 0, .none⟩
              }).adminDone e tag .ok 0).conclude)
        ∧ (on = false → s.streams[i].laneEnable = true → s.streams[i].lane.state ≠ .run →
          exec (.configureStream tag i on f) s = .next
            (((s.adminLanded j).withStream i { x with laneEnable := false, lane := .off }).adminDone e tag .ok 0).conclude)
        ∧ (on = false → s.streams[i].laneEnable = true → s.streams[i].lane.state = .run →
          ∀ y : StreamState, y = { x with laneEnable := false, lane := .off, relink := true } →
          (s.streams[i].frame = none → exec (.configureStream tag i on f) s = .next
            (((s.adminLanded j).withStream i y).adminDone e tag .ok 0).conclude)
          ∧ (∀ fr, s.streams[i].frame = some fr → fr.bound = none → exec (.configureStream tag i on f) s = .next
            (((s.adminLanded j).withStream i (y.unframed false)).adminDone e tag .ok 0).conclude)
          ∧ (∀ fr c k, s.boundTo i fr c k → exec (.configureStream tag i on f) s = .next
            ((((s.adminLanded j).withStream i y).frameLost i c k).adminDone e tag .ok 0).conclude)))))
  ∧ ∀ (f : ProfileFields) (p : Profile), profileOf f = some p ↔
    p = {
      id := f.profileId.setWidth 4, lineLength := f.lineLength.toNat, frameHeight := f.frameHeight.toNat
      layout := if f.layout = 1 then .paired else .single, maxLag := f.maxLag.toNat, quota := f.quota.toNat
      mergeRatio := f.mergeRatio.toNat, knee := f.knee.toNat, settleFrames := f.settleFrames.toNat
      referenceRows := f.referenceRows.toNat, fixedBlack := f.fixedBlack, gapTimeout := f.gapTimeout.toNat }
    ∧ f.profileId.toNat ≤ 15 ∧ 8 ≤ f.lineLength.toNat ∧ f.lineLength.toNat ≤ 4096 ∧ f.lineLength.toNat % 8 = 0
    ∧ 1 ≤ f.frameHeight.toNat ∧ f.frameHeight.toNat ≤ 16384
    ∧ ((f.layout = 0 ∧ f.maxLag = 0 ∧ f.quota = 0)
      ∨ (f.layout = 1 ∧ 1 ≤ f.maxLag.toNat ∧ f.maxLag.toNat ≤ 64 ∧ f.maxLag.toNat < f.quota.toNat ∧ f.quota.toNat ≤ 128))
    ∧ 1 ≤ f.mergeRatio.toNat ∧ f.mergeRatio.toNat ≤ 64 ∧ 1 ≤ f.knee.toNat ∧ f.settleFrames.toNat ≤ 3
    ∧ f.referenceRows.toNat ≤ 16 ∧ 1 ≤ f.gapTimeout.toNat

/-- LOAD_DEFECTS (R164): bad arguments are INVALID, an empty list stages an empty table and completes OK, and any
other list begins its reads with the command in execution. -/
def Obligations.LoadDefects : Prop :=
  ∀ (s : State) j e tag i list count, s.adminReading j e → s.device = .running → s.admin.executing = none →
    exec (.loadDefects tag i list count) s = .next
      (if count.toNat ≤ 1024 ∧ list.toNat % 256 = 0
          ∧ list.toNat + 256 * ((count.toNat * 4 + 255) / 256) ≤ 2 ^ 64 then
        if count = 0 then
          (((s.adminLanded j).withStream i { s.streams[i] with stagedDefects := some [] }).adminDone e tag .ok 0).conclude
        else
          { s.adminLanded j with admin := { s.admin with
              executing := some ⟨e, tag, some (.loadDefects i list count.toNat)⟩
              load := some ⟨i, list, count.toNat, (count.toNat * 4 + 255) / 256, 0, 0, 0, false, []⟩ } }.conclude
      else ((s.adminLanded j).adminDone e tag .invalid 0).conclude)

/-- The next defect burst is issued while bursts remain, fewer than 4 are outstanding and none has failed, in RUNNING
and STOPPING; otherwise nothing happens (R165). -/
def Obligations.DefectBurstIssue : Prop :=
  ∀ s : State,
    (∀ (l : Load) j, s.admin.load = some l → l.issued < l.bursts → l.outstanding < 4 → l.failed = false →
      s.device = .running ∨ s.device = .stopping → s.nextRead j →
      exec .defectBurstIssue s = .next { s with
        admin := { s.admin with load := some { l with issued := l.issued + 1, outstanding := l.outstanding + 1 } }
        reads := s.reads.set j (.issued ⟨.defectBurst, some (.load l.issued), l.list + BitVec.ofNat 64 (256 * l.issued),
          256, s.timeBase, s.responseTimeout, []⟩)
        handed := some ⟨.read, j, l.list + BitVec.ofNat 64 (256 * l.issued), 256, []⟩ })
    ∧ ((∀ l, s.admin.load = some l → l.bursts ≤ l.issued ∨ 4 ≤ l.outstanding ∨ l.failed = true)
        ∨ (s.device ≠ .running ∧ s.device ≠ .stopping) ∨ (∀ j : Fin Config.readEntries, s.reads[j] ≠ .free) →
      exec .defectBurstIssue s = .next s)

/-- A defect burst is answered (R165, R166, R167, R183): it is placed; the last one has the list validated, staged and
completed OK with its count, or completed TABLE_ERROR; a failed one fails the load, which completes READ_FAULT once
no read is outstanding. A list is valid just when each of its entries lies in its ranges with no stray bit, strictly
after the one before it by row and then by column, and the bytes behind the last entry are zero (R166, R213). Burst
`j` stands at offset 256 × `j` of the list, whatever its length (R165); that bytes lacking to 256 read 0 and bytes past
256 are disregarded is the model's choice (log entry 20). -/
def Obligations.DefectBurstAnswered : Prop :=
  (∀ (s : State) j b (x : Beat) (l : Load) (cmd : AdminCommand), s.readingFor j (.load b) → s.device ≠ .resetting →
    s.admin.load = some l → s.admin.executing = some cmd →
    (∀ (d : List Byte) (m : Load), s.landsWith j x d → l.failed = false → m = { l with
        outstanding := l.outstanding - 1, landed := l.landed + 1, buffer := l.buffer ++ [(b, d)] } →
      (m.landed ≠ l.bursts → exec (.defectBurstLands j x) s = .next
        { s.readFreed j with admin := { s.admin with load := some m } }.conclude)
      ∧ (m.landed = l.bursts → exec (.defectBurstLands j x) s = .next
        (match readDefects m.bytes l.count l.bursts with
          | some t => (((s.readFreed j).withStream l.stream { s.streams[l.stream] with stagedDefects := some t }).adminDone
              cmd.entry cmd.tag .ok (BitVec.ofNat 32 l.count)).conclude
          | none => ((s.readFreed j).adminDone cmd.entry cmd.tag .tableError 0).conclude)))
    ∧ (∀ c : Instr, (c = .defectBurstFails j x ∧ s.failsWith j x)
          ∨ (c = .defectBurstLands j x ∧ (∃ d, s.landsWith j x d) ∧ l.failed = true) →
      exec c s = .next
        (if l.outstanding ≤ 1 then ((s.readFreed j).adminDone cmd.entry cmd.tag .readFault 0).conclude
        else { s.readFreed j with admin := { s.admin with
          load := some { l with outstanding := l.outstanding - 1, failed := true } } }.conclude)))
  ∧ (∀ (r : List Byte) (count bursts : Nat) (t : List DefectEntry), readDefects r count bursts = some t ↔
    t.length = count
    ∧ (∀ (k : Nat) d, t[k]? = some d →
      d.row = leField r (4 * k) 2 ∧ d.row ≤ 16383 ∧ d.column = leField r (4 * k + 2) 2 % 8192 ∧ d.column ≤ 4095
      ∧ leField r (4 * k + 2) 2 / 8192 = [DefectMethod.average, .left, .right].idxOf d.method)
    ∧ (∀ (k : Nat) a d, t[k]? = some a → t[k + 1]? = some d → a.row < d.row ∨ (a.row = d.row ∧ a.column < d.column))
    ∧ ∀ k, 4 * count ≤ k → k < 256 * bursts → byteAt r k = 0)
  ∧ ∀ (l : Load) (j k : Nat) (d : List Byte), l.buffer.find? (fun b => b.1 = j) = some (j, d) → j < l.bursts → k < 256 →
    byteAt l.bytes (256 * j + k) = byteAt d k

/-- ABORT_STREAM (R168, R169, R52): an ABSENT ring is INVALID; otherwise the ring is HALTED, the prefetch list is empty,
both captures are FLUSHING with ABORTED recorded, their held lines released (R109) and their buffered lines dropped
(R91), and no OPEN or FIXED group names the stream (R124). The state is written out: the stream as
`State.streamAborted` has it, every listed request READY with ABORTED, or PARKED with it as a group's member, the count
at the number of listed requests, and then every group that names the stream breaks (`GroupResolves` says how), in the
order that is the model's choice (log entry 22). The abort completes OK with its count once both contexts are free, and
not before. -/
def Obligations.AbortStream : Prop :=
  (∀ (s : State) j e tag i, s.adminReading j e → s.device = .running → s.admin.executing = none →
    (s.rings[ringOfStream i].state = .absent →
      exec (.abortStream tag i) s = .next ((s.adminLanded j).adminDone e tag .invalid 0).conclude)
    ∧ (s.rings[ringOfStream i].state ≠ .absent → s.admin.waiting = none → ∃ t, exec (.abortStream tag i) s = .next t
      ∧ t.outside = (s.adminLanded j).outside
      ∧ t.rings = (s.adminLanded j).rings.set (ringOfStream i) { s.rings[ringOfStream i] with state := .halted }
      ∧ t.streams[i].prefetch = [] ∧ t.streams[i].deadline = none
      ∧ (∀ (c : ContextId) k, t.streams[i].contexts[c] = some k → k.phase = .flushing ∧ k.causes.aborted = true)
      ∧ (∀ l ∈ t.streams[i].buffer, s.streams[i].contexts[l.context] = none)
      ∧ (∀ h ∈ t.pairing, h.stream = i → s.streams[i].contexts[h.context] = none)
      ∧ ∀ g : GroupId, t.groups[g].mask[i] = true → t.groups[g].state ≠ .opened ∧ t.groups[g].state ≠ .fixed)
    ∧ (s.rings[ringOfStream i].state ≠ .absent → ∀ u : State, u = { s.adminLanded j with
        rings := (s.adminLanded j).rings.set (ringOfStream i) { s.rings[ringOfStream i] with state := .halted }
        admin := { s.admin with
          executing := some ⟨e, tag, some (.abortStream i)⟩, abort := some ⟨i, s.streams[i].prefetch.length⟩ } } →
      exec (.abortStream tag i) s = .next ((List.finRange 8).foldl (fun v (g : GroupId) =>
        if v.groups[g].mask[i] = true then v.breakGroup g else v) (u.streamAborted i)).conclude))
  ∧ ∀ s : State,
    (∀ (a : Abort) (cmd : AdminCommand), s.admin.abort = some a → s.admin.executing = some cmd →
      (∀ c : ContextId, s.streams[a.stream].contexts[c] = none) →
      exec .abortStreamCompletes s = .next (s.adminDone cmd.entry cmd.tag .ok (BitVec.ofNat 32 a.count)).conclude)
    ∧ ((∀ a, s.admin.abort = some a → ∃ c : ContextId, s.streams[a.stream].contexts[c] ≠ none) →
      exec .abortStreamCompletes s = .next s)

/-- OPEN_GROUP opens a FREE entry whose mask names at least two streams, all of 0..3 and with ACTIVE rings, and
starts its timer; an entry in use is BUSY and any other mask INVALID (R171, R114). CLOSE_GROUP of a FREE entry is
INVALID, of a BROKEN one changes nothing, and breaks any other (R172): its registered members finish GROUP_BROKEN and
leave their lists, and it resolves in the same event if no member is bound (R122, R127; `GroupResolves` says what
`breakGroup` does). -/
def Obligations.OpenAndCloseGroup : Prop :=
  ∀ (s : State) j e tag (g : GroupId), s.adminReading j e → s.device = .running → s.admin.executing = none →
    (∀ (mask : Byte) (timeout : Half), exec (.openGroup tag g mask timeout) s = .next
      (if s.groups[g].state ≠ .free then ((s.adminLanded j).adminDone e tag .busy 0).conclude
      else if mask.toNat < 16 ∧ (∃ i k : StreamId, i ≠ k ∧ mask.getLsbD i = true ∧ mask.getLsbD k = true)
          ∧ (∀ i : StreamId, mask.getLsbD i = true → s.rings[ringOfStream i].state = .active) then
        ({ s.adminLanded j with
          groups := s.groups.set g ⟨.opened, Vector.ofFn fun i => mask.getLsbD i, Vector.replicate 4 .empty, none,
            timeout.toNat, if timeout = 0 then none else some s.timeBase⟩
          }.adminDone e tag .ok 0).conclude
      else ((s.adminLanded j).adminDone e tag .invalid 0).conclude))
    ∧ exec (.closeGroup tag g) s = .next
      (if s.groups[g].state = .free then ((s.adminLanded j).adminDone e tag .invalid 0).conclude
      else if s.groups[g].state = .broken then ((s.adminLanded j).adminDone e tag .ok 0).conclude
      else (((s.adminLanded j).breakGroup g).adminDone e tag .ok 0).conclude)

/-- READ_STATS takes its snapshot and offers its block write with the command in execution; a block that is not
aligned is INVALID (R173). The block is issued when the rotation grants the Admin Unit (R182), and its answer completes
READ_STATS OK, the counters lowered by the snapshot if clear was set, or WRITE_FAULT (R174, R56). The block is 64 bytes,
each field little-endian at its offset (R214), and lowering takes from each counter its value in the snapshot (R56). -/
def Obligations.ReadStats : Prop :=
  (∀ (s : State) j e tag i block clear, s.adminReading j e → s.device = .running → s.admin.executing = none →
    exec (.readStats tag i block clear) s = .next
      (if block.toNat % 64 = 0 ∧ block.toNat + 64 ≤ 2 ^ 64 then
        { s.adminLanded j with admin := { s.admin with
          executing := some ⟨e, tag, some (.readStats i block clear)⟩
          snapshot := some ⟨i, block, clear, s.streams[i].stats, s.streams[i].lastLineCount, s.streams[i].status,
            false⟩ } }.conclude
      else ((s.adminLanded j).adminDone e tag .invalid 0).conclude))
  ∧ (∀ (s : State) (n : Snapshot) (cmd : AdminCommand), s.admin.snapshot = some n → s.admin.executing = some cmd →
    (∀ j, n.issued = false → s.device = .running ∨ s.device = .stopping → s.nextWrite j →
      (∀ q : RequesterId, (q - s.writeRotation).val < (1 - s.writeRotation : RequesterId).val →
        s.requesterReady q = false) →
      exec .statisticsBlockIssue s = .next { s with
        writeRotation := 2, admin := { s.admin with snapshot := some { n with issued := true } }
        writes := s.writes.set j (.issued ⟨.statisticsBlock, some .statistics, n.block, 64, s.timeBase,
          s.responseTimeout, []⟩)
        handed := some ⟨.write, j, n.block, 64, statisticsBlock n⟩ })
    ∧ (n.issued = true → exec .statisticsBlockIssue s = .next s)
    ∧ (∀ j, s.writingFor j .statistics → s.device ≠ .resetting →
      exec (.statisticsBlockResponse j .okay) s = .next
        ((if n.clear then (s.writeFreed j).withStream n.stream { s.streams[n.stream] with
            stats := s.streams[n.stream].stats.lower n.stats } else s.writeFreed j).adminDone
          cmd.entry cmd.tag .ok 0).conclude
      ∧ ∀ code, exec (.statisticsBlockResponse j (.error code)) s = .next
        ((s.writeFreed j).adminDone cmd.entry cmd.tag .writeFault 0).conclude))
  ∧ (∀ (n : Snapshot) (b : List Byte) (c : Stats), b = statisticsBlock n → c = n.stats →
    b.length = 64
    ∧ leField b 0 4 = c.framesSeen.toNat ∧ leField b 4 4 = c.framesBound.toNat
    ∧ leField b 8 4 = c.framesUnclaimed.toNat ∧ leField b 12 4 = c.framesForeign.toNat
    ∧ leField b 16 4 = c.framesTruncated.toNat ∧ leField b 20 4 = c.linesDamaged.toNat
    ∧ leField b 24 4 = c.packetsStray.toNat ∧ leField b 28 4 = c.linesOverrun.toNat
    ∧ leField b 32 4 = c.linesUnpaired.toNat ∧ leField b 36 4 = c.linesLate.toNat
    ∧ leField b 40 4 = c.evictions.toNat ∧ leField b 44 4 = c.laneLosses.toNat
    ∧ leField b 48 4 = c.headerErrors.toNat ∧ leField b 52 2 = n.lastLineCount.toNat
    ∧ byteAt b 54 = [StreamStatus.disabled, .unlinked, .betweenFrames, .inFrame].idxOf n.status
    ∧ ∀ k, 55 ≤ k → k < 64 → byteAt b k = 0)
  ∧ ∀ a b : Stats, a.lower b = {
    framesSeen := a.framesSeen - b.framesSeen, framesBound := a.framesBound - b.framesBound
    framesUnclaimed := a.framesUnclaimed - b.framesUnclaimed, framesForeign := a.framesForeign - b.framesForeign
    framesTruncated := a.framesTruncated - b.framesTruncated, linesDamaged := a.linesDamaged - b.linesDamaged
    packetsStray := a.packetsStray - b.packetsStray, linesOverrun := a.linesOverrun - b.linesOverrun
    linesUnpaired := a.linesUnpaired - b.linesUnpaired, linesLate := a.linesLate - b.linesLate
    evictions := a.evictions - b.evictions, laneLosses := a.laneLosses - b.laneLosses
    headerErrors := a.headerErrors - b.headerErrors }


/-! ## Lanes -/

/-- What the four classes of word do outside RUN (R59 to R62): nothing in OFF; the training run of SEARCH, which ends
in ALIGNED at 64; in ALIGNED an ILLEGAL word returns to SEARCH and a DATA word brings the link up as the first
header word (R33). -/
def Obligations.WordsOutsideRun : Prop :=
  ∀ (s : State) i v code (l : Lane), (Instr.illegalWord i code).wellFormed = true → s.streams[i].lane = l →
    (l.state = .off →
      ∀ c ∈ [Instr.idleWord i, .trainWord i, .dataWord i v, .illegalWord i code], exec c s = .next s)
    ∧ (l.state = .search →
      exec (.trainWord i) s = .next (s.withStream i { s.streams[i] with
        lane := if l.runCount < 63 then { l with runCount := l.runCount + 1 } else ⟨.aligned, 0, 0, .none⟩ })
      ∧ ∀ c ∈ [Instr.idleWord i, .dataWord i v, .illegalWord i code], exec c s =
        .next (s.withStream i { s.streams[i] with lane := { l with runCount := 0 } }))
    ∧ (l.state = .aligned →
      exec (.idleWord i) s = .next s ∧ exec (.trainWord i) s = .next s
      ∧ exec (.illegalWord i code) s = .next (s.withStream i { s.streams[i] with lane := ⟨.search, 0, 0, .none⟩ })
      ∧ exec (.dataWord i v) s = .next (s.withStream i { s.streams[i] with
        lane := ⟨.run, 0, 0, .header [v]⟩, relink := false
        settle := if s.streams[i].relink then max s.streams[i].settle 1 else s.streams[i].settle }).conclude)

/-- What a word does in RUN where it is no header error and hands over no packet (R62, R63, R67, R70, R71, R72): the
words of headers, payloads and discards, a line cut short, and a retrain, which closes the frame TRUNCATED; the capture
of a bound frame is FLUSHING and its held lines are flushed (R49, R106), or wait behind another capture whose flush is
pending (the model's reading of R106 and R107, log entry 15). -/
def Obligations.WordsInRun : Prop :=
  ∀ (s : State) i v (l : Lane), s.streams[i].lane = l → l.state = .run →
    ∀ put : Lane → State, (∀ m, put m = s.withStream i { s.streams[i] with lane := m }) →
    (l.phase = .gap → exec (.idleWord i) s = .next s
      ∧ exec (.dataWord i v) s = .next (put { l with phase := .header [v] }))
    ∧ (∀ ws, l.phase = .header ws → ws.length < 3 →
      exec (.dataWord i v) s = .next (put { l with phase := .header (ws ++ [v]) }))
    ∧ (∀ p : Payload, l.phase = .payload p →
      exec (.idleWord i) s = .next (put { l with phase := .gap })
      ∧ (0 < p.remaining → exec (.dataWord i v) s = .next (put { l with phase := .payload { p with
          remaining := p.remaining - 1, check := payloadStep p.check v
          kept := if p.kept.length < p.keep then p.kept ++ [v] else p.kept } })))
    ∧ (l.phase = .discard → exec (.dataWord i v) s = .next s
      ∧ exec (.idleWord i) s = .next (put { l with phase := .gap }))
    ∧ (s.streams[i].frame = none → exec (.trainWord i) s = .next (put ⟨.aligned, 0, 0, .none⟩).conclude)
    ∧ (∀ f, s.streams[i].frame = some f → f.bound = none → exec (.trainWord i) s = .next
      (s.withStream i { s.streams[i] with
        lane := ⟨.aligned, 0, 0, .none⟩, frame := none, gapTimer := none
        stats := { s.streams[i].stats with framesTruncated := satInc s.streams[i].stats.framesTruncated } }).conclude)
    ∧ (∀ f c k, s.boundTo i f c k → s.flushesAtOnce i c k →
      exec (.trainWord i) s = .next ((put ⟨.aligned, 0, 0, .none⟩).frameFlushed i c k false).conclude)
    ∧ (∀ f (c a : ContextId) (k m : Capture), s.boundTo i f c k → a ≠ c → s.streams[i].contexts[a] = some m →
      m.flushPending = true →
      exec (.trainWord i) s = .next ((put ⟨.aligned, 0, 0, .none⟩).frameClosed i c k { k.causes with truncated := true }
        false [] (decide (s.heldBy i c ≠ [])) s.pairing).conclude)

/-- A header error: an ILLEGAL word in RUN (R69), an IDLE word in a header (R71), or a fourth header word that makes
no good header (R63, R64). It is counted, and the fourth in a row loses the lane, with LANE set and the relink pending
(R66, R27); a frame in progress closes LINK_LOST, and the held lines of its capture are released (R50, R108). -/
def Obligations.HeaderErrors : Prop :=
  ∀ (s : State) i (l : Lane) (c : Instr) (next : ReceivePhase), s.streams[i].lane = l → l.state = .run →
    ((∃ code, c = .illegalWord i code ∧ c.wellFormed = true ∧ next = .discard)
      ∨ (∃ ws, c = .idleWord i ∧ l.phase = .header ws ∧ next = .gap)
      ∨ (∃ v w0 w1 w2, c = .dataWord i v ∧ l.phase = .header [w0, w1, w2] ∧ judgeHeader w0 w1 w2 v = none
          ∧ next = .discard)) →
    ∀ n : Stats, n = { s.streams[i].stats with headerErrors := satInc s.streams[i].stats.headerErrors } →
    (l.headerErrors < 3 → exec c s = .next (s.withStream i { s.streams[i] with
      lane := { l with headerErrors := l.headerErrors + 1, phase := next }, stats := n }).conclude)
    ∧ (3 ≤ l.headerErrors → ∀ x : StreamState, x = { s.streams[i] with
        lane := ⟨.search, 0, 0, .none⟩, relink := true, stats := { n with laneLosses := satInc n.laneLosses } } →
      (s.streams[i].frame = none → exec c s = .next ((s.withStream i x).withStatusBits irqLane).conclude)
      ∧ (∀ f, s.streams[i].frame = some f → f.bound = none →
        exec c s = .next ((s.withStream i (x.unframed false)).withStatusBits irqLane).conclude)
      ∧ (∀ f d k, s.boundTo i f d k →
        exec c s = .next (((s.withStream i x).frameLost i d k).withStatusBits irqLane).conclude))

/-- The last word of a packet delivers it (R63, R64, R65, R68, R73): a good FRAME_START or FRAME_END header is that
command at once, a good LINE header begins a payload that keeps at most the active profile's line length, and the
payload's check word is the LINE command, damaged where the check fails; the header error count is 0 again. A header is
good when its check word is the header check of its three words and its kind and fields are those of a packet (R207);
both checks take in a word bit by bit from bit 15 on (R208). -/
def Obligations.PacketsDelivered : Prop :=
  (∀ (s : State) i v (l : Lane) p, s.streams[i].lane = l → s.linked i p →
    ∀ put : Lane → State, (∀ m, put m = s.withStream i { s.streams[i] with lane := m }) →
    (∀ w0 w1 w2, l.phase = .header [w0, w1, w2] →
      (∀ n id, judgeHeader w0 w1 w2 v = some (.frameStart n id) →
        exec (.dataWord i v) s = exec (.frameStart i n id) (put { l with headerErrors := 0, phase := .gap }))
      ∧ (∀ n c, judgeHeader w0 w1 w2 v = some (.frameEnd n c) →
        exec (.dataWord i v) s = exec (.frameEnd i n c) (put { l with headerErrors := 0, phase := .gap }))
      ∧ (∀ x e n, judgeHeader w0 w1 w2 v = some (.line x e n) →
        exec (.dataWord i v) s = .next (put { l with
          headerErrors := 0, phase := .payload ⟨x, e, min n p.lineLength, n, [], 0xFFFF#16⟩ })))
    ∧ (∀ k : Payload, l.phase = .payload k → k.remaining = 0 →
      ∃ t, exec (.line i k.index k.exposure k.kept (decide (v ≠ k.check))) (put { l with phase := .gap }) = .next t
        ∧ exec (.dataWord i v) s = .next t.conclude))
  ∧ (∀ (w0 w1 w2 w3 : Half) (check : Prop), (check ↔ w3.toNat = (headerCheck [w0, w1, w2]).toNat) →
    (∀ n id, judgeHeader w0 w1 w2 w3 = some (.frameStart n id) ↔
      check ∧ w0 = 0x00A1 ∧ w1 = n ∧ w2.toNat = id.toNat)
    ∧ (∀ x e n, judgeHeader w0 w1 w2 w3 = some (.line x e n) ↔
      check ∧ w0 = 0x00A2 ∧ w1.toNat = x.toNat + 16384 * ([Exposure.single, .long, .short].idxOf e + 1)
        ∧ w2.toNat = n ∧ 1 ≤ n ∧ n ≤ 4096)
    ∧ (∀ n c, judgeHeader w0 w1 w2 w3 = some (.frameEnd n c) ↔ check ∧ w0 = 0x00A3 ∧ w1 = n ∧ w2 = c))
  ∧ ∀ w0 w1 w2 v check : Half,
    headerCheck [w0, w1, w2] = (List.range 48).foldl (fun (r : BitVec 8) k =>
      if r.getMsbD 0 ≠ (w0 ++ w1 ++ w2).getMsbD k then (r <<< 1) ^^^ 0x07 else r <<< 1) 0xFF
    ∧ payloadStep check v = (List.range 16).foldl (fun (r : Half) k =>
      if r.getMsbD 0 ≠ v.getMsbD k then (r <<< 1) ^^^ 0x1021 else r <<< 1) check

/-! ## Frames -/

/-- A FRAME_START (R34, R30, R31, R32, R79). With an empty prefetch list the active profile's id begins a frame, marked by
the settle count, with a staged defect table active, and the staged profile's id activates that profile first. Whatever
the list holds, the staged profile's id acts as it does with that profile active, none staged and the settle count at its
settle frames (R30), and any other id is foreign, closes the frame in progress, is counted, and is offered to nobody
(R31). A frame in progress closes TRUNCATED before anything else, whatever the new start is (R48), its capture FLUSHING
and its held lines flushed (R106), or waiting behind another capture whose flush is pending (the model's reading, log
entry 15); where that drains the capture its context is still held in the offer (the model's choice, log entry 2). With
the lane out of RUN, in DISABLED and UNLINKED, none arrives, and the command changes nothing (the model's choice, log
entry 7). -/
def Obligations.FrameStartOpens : Prop :=
  (∀ (s : State) i p number id, s.linked i p → s.streams[i].frame = none →
    ∀ (x : StreamState) (n : Stats), x = { s.streams[i] with
        activeDefects := s.streams[i].stagedDefects.getD s.streams[i].activeDefects, stagedDefects := none
        gapTimer := some s.timeBase, stats := { n with
          framesSeen := satInc n.framesSeen, framesUnclaimed := satInc n.framesUnclaimed } } →
      n = s.streams[i].stats →
    (s.streams[i].prefetch = [] → (∀ q, s.streams[i].staged = some q → q.id ≠ id) → p.id = id →
      exec (.frameStart i number id) s = .next (s.withStream i { x with
        settle := s.streams[i].settle - 1
        frame := some ⟨number, s.timeBase, decide (0 < s.streams[i].settle), none, none, none, none⟩ }).conclude)
    ∧ (∀ q, s.streams[i].staged = some q → q.id = id →
      (s.streams[i].prefetch = [] → exec (.frameStart i number id) s = .next (s.withStream i { x with
        active := some q, staged := none, settle := q.settleFrames - 1
        frame := some ⟨number, s.timeBase, decide (0 < q.settleFrames), none, none, none, none⟩ }).conclude)
      ∧ exec (.frameStart i number id) s = exec (.frameStart i number id)
        (s.withStream i { s.streams[i] with active := some q, staged := none, settle := q.settleFrames }))
    ∧ ((∀ q, s.streams[i].staged = some q → q.id ≠ id) → p.id ≠ id →
      exec (.frameStart i number id) s = .next (s.withStream i { s.streams[i] with
        stats := { n with framesForeign := satInc n.framesForeign } }).conclude))
  ∧ (∀ (s : State) i p number id f, s.linked i p → s.streams[i].frame = some f →
    (f.bound = none → exec (.frameStart i number id) s =
      exec (.frameStart i number id) (s.withStream i (s.streams[i].unframed false)))
    ∧ (∀ c k, s.boundTo i f c k → s.flushesAtOnce i c k → exec (.frameStart i number id) s =
      exec (.frameStart i number id) (s.frameFlushed i c k false))
    ∧ (∀ (c a : ContextId) (k m : Capture), s.boundTo i f c k → a ≠ c → s.streams[i].contexts[a] = some m →
      m.flushPending = true → exec (.frameStart i number id) s = exec (.frameStart i number id)
        (s.frameClosed i c k { k.causes with truncated := true } false [] (decide (s.heldBy i c ≠ [])) s.pairing)))
  ∧ ∀ (s : State) i number id,
    s.streams[i].active = none ∨ s.streams[i].laneEnable = false ∨ s.streams[i].lane.state ≠ .run →
    exec (.frameStart i number id) s = .next s

/-- The offer of a frame to an ungrouped CAPTURE at the head of the prefetch list (R35 to R38, R13), with no profile
staged or one of another id (R30): one that does not suit the profile is INVALID; one that suits binds a frame it may
take, in the lower free context (the model's choice, log entry 10); a NUMBERED one is MISSED when the frame is ahead of
it, or is its own and it cannot bind; one that the frame is behind, and a NEXT one that cannot bind, waits. The requests
behind a head that leaves become head as `adoptHead` has it (R15; `DeadlineExpires` says what it does): after a binding
the offer has ended, and where the head finishes it goes on as if the new head had been the head (R36). A binding records
the request, the frame's number, start time and marking, the profile and the active defect table; its counters are 0, its
causes, marks and row records empty, its black values unfixed, and no write is outstanding (R17, R82, R98, R111). -/
def Obligations.FrameStartOffers : Prop :=
  (∀ (s : State) i p number (q : Request) rest, s.linked i p → s.streams[i].frame = none →
    (∀ r, s.streams[i].staged = some r → r.id ≠ p.id) → s.streams[i].prefetch = q :: rest → q.group = none →
    ∀ (x : StreamState) (f : Frame) (n : Stats) (cannot : Prop), x = { s.streams[i] with
        activeDefects := s.streams[i].stagedDefects.getD s.streams[i].activeDefects, stagedDefects := none
        gapTimer := some s.timeBase, settle := s.streams[i].settle - 1, frame := some f } →
      f = ⟨number, s.timeBase, decide (0 < s.streams[i].settle), none, none, none, none⟩ →
      n = { s.streams[i].stats with framesSeen := satInc s.streams[i].stats.framesSeen } →
      (cannot ↔ (∀ c : ContextId, s.streams[i].contexts[c] ≠ none)
        ∨ (0 < s.streams[i].settle ∧ q.acceptUnsettled = false)) →
    (∀ c : ContextId, q.suits p = true → q.selector = .next ∨ q.number = number →
      s.streams[i].contexts[c] = none → (∀ d < c, s.streams[i].contexts[d] ≠ none) →
      s.streams[i].settle = 0 ∨ q.acceptUnsettled = true →
      exec (.frameStart i number p.id) s = .next (adoptHead i rest (s.withStream i { x with
        frame := some { f with bound := some c }
        contexts := s.streams[i].contexts.set c (some (q.bindTo f p x.activeDefects))
        stats := { n with framesBound := satInc n.framesBound } })).conclude)
    ∧ (∀ status, (q.suits p = false ∧ status = .invalid)
        ∨ (q.suits p = true ∧ status = .missed ∧ q.selector = .numbered
          ∧ (frameOrder number q.number = .ahead ∨ (number = q.number ∧ cannot))) →
      (rest = [] → exec (.frameStart i number p.id) s = .next ((s.withStream i { x with
        prefetch := [], deadline := none
        stats := { n with framesUnclaimed := satInc n.framesUnclaimed } }).withReady q.entry
          (.unbound status q.tag 0) q.notify).conclude)
      ∧ exec (.frameStart i number p.id) s = exec (.frameStart i number p.id)
        (adoptHead i rest (s.withReady q.entry (.unbound status q.tag 0) q.notify)))
    ∧ (q.suits p = true → (q.selector = .numbered ∧ frameOrder number q.number = .behind)
        ∨ (q.selector = .next ∧ cannot) →
      exec (.frameStart i number p.id) s = .next (s.withStream i { x with
        stats := { n with framesUnclaimed := satInc n.framesUnclaimed } }).conclude))
  ∧ (∀ (q : Request) (p : Profile), q.suits p = true ↔
    (q.assembly = .plain ↔ p.layout = .single) ∧ q.left + q.cols ≤ p.lineLength ∧ q.top + q.rows ≤ p.frameHeight
    ∧ (q.subtract = true → p.referenceRows ≤ q.top))
  ∧ ∀ (q : Request) (f : Frame) (p : Profile) (t : List DefectEntry), q.bindTo f p t = {
      phase := .capturing, request := q, frame := f.number, startTime := f.startTime, unsettled := f.unsettled
      profile := p, defects := t, counters := ⟨0, 0, 0, 0, 0, 0⟩, causes := ⟨false, false, false, false⟩
      outstanding := 0, blacks := ⟨⟨0, 0, none⟩, ⟨0, 0, none⟩, ⟨0, 0, none⟩⟩, shortHigh := none, watermark := none
      flushPending := false, rowsWritten := [], rowsShort := [], rowsDamaged := [], rowsLong := []
      rowsShortExposure := [] }

/-- The offer of a frame to a registered group member at the head of the prefetch list (R39, R118, R120), with no profile
staged or one of another id: the claim binds it, in the lower free context (the model's choice, log entry 10;
`FrameStartOffers` says what a binding records), and fixes the group at the frame's number, waits, or is MISSED; a member
that does not suit the profile is INVALID (R13). A member that finishes is PARKED and its group breaks, its other
registered members finishing GROUP_BROKEN (R121, R122; `GroupResolves` says what `breakGroup` does); the requests behind
a member that leaves become head (R15; `DeadlineExpires` says what `adoptHead` does), and the offer goes on after one
that finishes (R36). Alone in its list and its group with no other registered member, it leaves the state written out.
The group's timer stops once no slot of its mask is empty or registered (R115). -/
def Obligations.GroupClaims : Prop :=
  (∀ (s : State) i p number (q : Request) rest (g : GroupId) (e : Group), s.linked i p → s.streams[i].frame = none →
    (∀ r, s.streams[i].staged = some r → r.id ≠ p.id) → s.streams[i].prefetch = q :: rest → q.group = some g →
    s.groups[g] = e → e.state = .opened ∨ e.state = .fixed → e.slots[i] = ⟨.registered, some q, none⟩ →
    ∀ (x : StreamState) (f : Frame) (n : Stats), x = { s.streams[i] with
        activeDefects := s.streams[i].stagedDefects.getD s.streams[i].activeDefects, stagedDefects := none
        gapTimer := some s.timeBase, settle := s.streams[i].settle - 1, frame := some f } →
      f = ⟨number, s.timeBase, decide (0 < s.streams[i].settle), none, none, none, none⟩ →
      n = { s.streams[i].stats with framesSeen := satInc s.streams[i].stats.framesSeen } →
    (∀ c : ContextId, q.suits p = true → e.number = none ∨ e.number = some number → s.streams[i].contexts[c] = none →
      (∀ d < c, s.streams[i].contexts[d] ≠ none) → s.streams[i].settle = 0 ∨ q.acceptUnsettled = true →
      exec (.frameStart i number p.id) s = .next (adoptHead i rest { s.withStream i { x with
          frame := some { f with bound := some c }
          contexts := s.streams[i].contexts.set c (some (q.bindTo f p x.activeDefects))
          stats := { n with framesBound := satInc n.framesBound } } with
        groups := s.groups.set g { e with
          state := .fixed, number := some number, slots := e.slots.set i ⟨.bound, some q, none⟩ }.timed }).conclude)
    ∧ (∀ cannot : Prop, (cannot ↔ (∀ c : ContextId, s.streams[i].contexts[c] ≠ none)
          ∨ (0 < s.streams[i].settle ∧ q.acceptUnsettled = false)) →
      (q.suits p = true → (e.number = none ∧ cannot) ∨ (∃ G, e.number = some G ∧ frameOrder number G = .behind) →
        exec (.frameStart i number p.id) s = .next (s.withStream i { x with
          stats := { n with framesUnclaimed := satInc n.framesUnclaimed } }).conclude)
      ∧ (∀ status, (q.suits p = false ∧ status = .invalid) ∨ (q.suits p = true ∧ status = .missed
          ∧ ∃ G, e.number = some G ∧ (frameOrder number G = .ahead ∨ (number = G ∧ cannot))) →
        (rest = [] → (∀ k : StreamId, k ≠ i → e.slots[k].progress ≠ .registered) →
          exec (.frameStart i number p.id) s = .next ({ s.withStream i { x with
              prefetch := [], deadline := none
              stats := { n with framesUnclaimed := satInc n.framesUnclaimed } } with
            groups := s.groups.set g { e with
              state := .broken, timer := none, slots := e.slots.set i ⟨.finished, some q, some status⟩ }
            holding := s.holding.set q.entry { s.holding[q.entry] with
              state := .parked, report := .unbound status q.tag 0 } }.resolveGroup g).conclude)
        ∧ exec (.frameStart i number p.id) s = exec (.frameStart i number p.id) (adoptHead i rest
          ({ s.withStream i { s.streams[i] with prefetch := rest, deadline := none } with
            groups := s.groups.set g { e with slots := e.slots.set i ⟨.finished, some q, some status⟩ }
            holding := s.holding.set q.entry { s.holding[q.entry] with
              state := .parked, report := .unbound status q.tag 0 } }.breakGroup g)))))
  ∧ ∀ e : Group,
    ((∃ i : StreamId, e.mask[i] = true ∧ (e.slots[i].progress = .empty ∨ e.slots[i].progress = .registered)) → e.timed = e)
    ∧ ((∀ i : StreamId, e.mask[i] = true → e.slots[i].progress = .bound ∨ e.slots[i].progress = .finished) →
      e.timed = { e with timer := none })

/-- A LINE at the Stream Controller (R41, R42, R43, R44): in a frame with no capture an accepted line sets the last
index of its exposure, restarts the line-gap timer and is counted if damaged; a line that is not accepted, or with no
frame in progress, is stray; SINGLE fits the layout SINGLE, and LONG and SHORT fit PAIRED; and in DISABLED and UNLINKED none arrives (R73), so that the command changes nothing (the
model's choice, log entry 7). -/
def Obligations.LineArrives : Prop :=
  (∀ (e : Exposure) (l : Layout), exposureFits e l = true ↔
    (l = .single ∧ e = .single) ∨ (l = .paired ∧ (e = .long ∨ e = .short)))
  ∧ ∀ (s : State) i p idx e px d,
    (s.linked i p →
      (∀ f, s.streams[i].frame = some f →
        (exposureFits e p.layout = true ∧ idx.toNat < p.frameHeight ∧ (∀ n, f.last e = some n → n < idx.toNat) →
          f.bound = none → exec (.line i idx e px d) s = .next (s.withStream i { s.streams[i] with
            frame := some (f.accept idx.toNat e), gapTimer := some s.timeBase
            stats := if d then { s.streams[i].stats with linesDamaged := satInc s.streams[i].stats.linesDamaged }
              else s.streams[i].stats }))
        ∧ (exposureFits e p.layout = false ∨ p.frameHeight ≤ idx.toNat ∨ (∃ n, f.last e = some n ∧ idx.toNat ≤ n) →
          exec (.line i idx e px d) s = .next (s.withStream i { s.streams[i] with
            stats := { s.streams[i].stats with packetsStray := satInc s.streams[i].stats.packetsStray } })))
      ∧ (s.streams[i].frame = none → exec (.line i idx e px d) s = .next (s.withStream i { s.streams[i] with
          stats := { s.streams[i].stats with packetsStray := satInc s.streams[i].stats.packetsStray } })))
    ∧ (s.streams[i].active = none ∨ s.streams[i].laneEnable = false ∨ s.streams[i].lane.state ≠ .run →
      exec (.line i idx e px d) s = .next s)

/-- A line of a bound frame (R76, R85 to R89, R91, R111): repaired and black-subtracted by the
capture's options (`PixelValues` says how), a line of a PLAIN or SPLIT capture's window is cropped, converted and entered
at the tail of the Line Output Buffer, a SHORT line of a SPLIT capture in plane 2, its exposure marked present; it is lost and counted
when the buffer is full, and dropped for a capture that recorded WRITE_FAULT or ABORTED. A line outside the
window, of any capture, goes no further (`MergeLines` says what becomes of a MERGE capture's window lines). -/
def Obligations.LineStored : Prop :=
  ∀ (s : State) i p idx e px d (f : Frame) (c : ContextId) (k : Capture), s.linked i p →
    s.streams[i].frame = some f → f.accepts p idx.toNat e = true → f.bound = some c →
    s.streams[i].contexts[c] = some k →
    ∀ (x : StreamState) (q : Request) (n : Stats) (y : List Pixel) (m : Capture) (two : Bool) (row : Nat),
      q = k.request → y = (if q.repair then repairLine k.defects idx.toNat (px.take p.lineLength)
        else px.take p.lineLength) →
      m = { k with blacks := k.blacksAfter idx.toNat e y } →
      two = decide (q.assembly = .split ∧ e = .short) → row = idx.toNat - q.top →
      n = (if d then { s.streams[i].stats with linesDamaged := satInc s.streams[i].stats.linesDamaged }
        else s.streams[i].stats) →
      x = { s.streams[i] with
        frame := some (f.accept idx.toNat e), gapTimer := some s.timeBase, stats := n
        contexts := s.streams[i].contexts.set c (some m) } →
    (q.assembly ≠ .merge → q.top ≤ idx.toNat → idx.toNat < q.top + q.rows →
      (k.causes.writeFault = false → k.causes.aborted = false → s.streams[i].buffer.length < 8 →
        exec (.line i idx e px d) s = .next (s.withStream i { x with
          contexts := s.streams[i].contexts.set c (some (if q.assembly = .plain then m
            else if two then { m with rowsShortExposure := insertRow row k.rowsShortExposure }
            else { m with rowsLong := insertRow row k.rowsLong }))
          buffer := s.streams[i].buffer ++ [{
            context := c, plane := if two then .two else .one, row := row
            address := (if two then q.plane2 else q.buffer) + BitVec.ofNat 64 (row * q.pitch)
            bytes := convertRow q.format (crop q.left q.cols (k.subtracted idx.toNat e y))
            short := decide (y.length < q.left + q.cols), damaged := d, unpaired := false, issued := 0 }] }))
      ∧ (k.causes.writeFault = false → k.causes.aborted = false → 8 ≤ s.streams[i].buffer.length →
        exec (.line i idx e px d) s = .next (s.withStream i { x with
          contexts := s.streams[i].contexts.set c (some { m with
            counters := { k.counters with overrun := satInc k.counters.overrun } })
          stats := { n with linesOverrun := satInc n.linesOverrun } }))
      ∧ (k.causes.writeFault = true ∨ k.causes.aborted = true →
        exec (.line i idx e px d) s = .next (s.withStream i x)))
    ∧ (idx.toNat < q.top ∨ q.top + q.rows ≤ idx.toNat → exec (.line i idx e px d) s = .next (s.withStream i x))

/-- A window line of a bound MERGE capture (R99 to R103). A LONG line at or below a SHORT one is late; above them it
is held while the quota has room, and with a full quota takes the place of the stream's oldest held line, which is written
alone by the capture that owns it and moves that capture's watermark, or is lost when the buffer is full. A SHORT line is merged column by column with its
held partner, which leaves the store, also where the buffer is full and the row is lost as overrun (R102, R89); without
one it is late at or below the watermark and else written alone, or lost likewise. A long pixel below the knee stands in
the merged row; for any other the row has the short pixel times the merge ratio, at most 65535, as a short-only row has in
every column (R102, R103, R4). -/
def Obligations.MergeLines : Prop :=
  (∀ (knee ratio : Nat) (l v : Pixel), (scalePixel v ratio).toNat = min (v.toNat * ratio) 65535
    ∧ mergePixel knee ratio l v = if l.toNat < knee then l else scalePixel v ratio)
  ∧ ∀ (s : State) i p idx e px d (f : Frame) (c : ContextId) (k : Capture), s.linked i p →
    s.streams[i].frame = some f → f.accepts p idx.toNat e = true → f.bound = some c →
    s.streams[i].contexts[c] = some k → k.request.assembly = .merge →
    k.request.top ≤ idx.toNat → idx.toNat < k.request.top + k.request.rows →
    k.causes.writeFault = false → k.causes.aborted = false →
    ∀ (x : StreamState) (q : Request) (n : Stats) (y : List Pixel) (m : Capture) (h : HeldLine)
        (line : Nat → List Pixel → Bool → Bool → Bool → OutputLine), q = k.request →
      y = (if q.repair then repairLine k.defects idx.toNat (px.take p.lineLength) else px.take p.lineLength) →
      m = { k with blacks := k.blacksAfter idx.toNat e y } →
      h = ⟨i, c, idx.toNat, crop q.left q.cols (k.subtracted idx.toNat e y), d, decide (y.length < q.left + q.cols)⟩ →
      n = (if d then { s.streams[i].stats with linesDamaged := satInc s.streams[i].stats.linesDamaged }
        else s.streams[i].stats) →
      x = { s.streams[i] with
        frame := some (f.accept idx.toNat e), gapTimer := some s.timeBase, stats := n
        contexts := s.streams[i].contexts.set c (some m) } →
      (∀ row v sh dm un, line row v sh dm un = {
        context := c, plane := .one, row := row, address := q.buffer + BitVec.ofNat 64 (row * q.pitch)
        bytes := convertRow q.format v, short := sh, damaged := dm, unpaired := un, issued := 0 }) →
    (e = .long →
      (∀ w, k.shortHigh = some w → idx.toNat ≤ w →
        exec (.line i idx e px d) s = .next (s.withStream i { x with
          contexts := s.streams[i].contexts.set c (some { m with
            counters := { k.counters with late := satInc k.counters.late } })
          stats := { n with linesLate := satInc n.linesLate } }))
      ∧ ((∀ w, k.shortHigh = some w → w < idx.toNat) →
        (s.heldCount i < p.quota →
          exec (.line i idx e px d) s = .next { s.withStream i x with pairing := s.pairing ++ [h] })
        ∧ (∀ old : HeldLine, p.quota ≤ s.heldCount i → s.streams[i].buffer.length < 8 →
          s.pairing.find? (fun l => decide (l.stream = i)) = some old → old.context = c → k.flushPending = false →
          exec (.line i idx e px d) s = .next { s.withStream i { x with
            contexts := s.streams[i].contexts.set c (some { m with watermark := some old.index })
            buffer := s.streams[i].buffer ++ [line (old.index - q.top) old.pixels old.short old.damaged true]
            stats := { n with evictions := satInc n.evictions } } with pairing := s.pairing.erase old ++ [h] })
        ∧ (∀ (old : HeldLine) (a : ContextId) (z : Capture), p.quota ≤ s.heldCount i → s.streams[i].buffer.length < 8 →
          s.pairing.find? (fun l => decide (l.stream = i)) = some old → old.context = a → a ≠ c →
          s.streams[i].contexts[a] = some z → z.request.assembly = .merge →
          z.causes.writeFault = false → z.causes.aborted = false →
          exec (.line i idx e px d) s = .next { s.withStream i { x with
            contexts := (s.streams[i].contexts.set c (some m)).set a (some { z with
              watermark := some old.index
              flushPending := z.flushPending && (s.pairing.erase old).any fun l => l.ownedBy i a })
            buffer := s.streams[i].buffer ++ [old.alone z.request a]
            stats := { n with evictions := satInc n.evictions } } with pairing := s.pairing.erase old ++ [h] })
        ∧ (p.quota ≤ s.heldCount i → 8 ≤ s.streams[i].buffer.length →
          exec (.line i idx e px d) s = .next (s.withStream i { x with
            contexts := s.streams[i].contexts.set c (some { m with
              counters := { k.counters with overrun := satInc k.counters.overrun } })
            stats := { n with linesOverrun := satInc n.linesOverrun } }))))
    ∧ (e = .short → ∀ (u : Capture) (o : Option HeldLine), u = { m with shortHigh := some idx.toNat } →
      o = s.pairing.find? (fun l => l.ownedBy i c && l.index == idx.toNat) →
      (∀ l : HeldLine, o = some l → s.streams[i].buffer.length < 8 →
        exec (.line i idx e px d) s = .next { s.withStream i { x with
          contexts := s.streams[i].contexts.set c (some u)
          buffer := s.streams[i].buffer ++ [line (idx.toNat - q.top)
            (List.zipWith (mergePixel k.profile.knee k.profile.mergeRatio) l.pixels h.pixels)
            (l.short || h.short) (l.damaged || d) false] } with pairing := s.pairing.erase l })
      ∧ (∀ z : StreamState, z = { x with
          contexts := s.streams[i].contexts.set c (some { u with
            counters := { k.counters with overrun := satInc k.counters.overrun } })
          stats := { n with linesOverrun := satInc n.linesOverrun } } → 8 ≤ s.streams[i].buffer.length →
        (∀ l : HeldLine, o = some l →
          exec (.line i idx e px d) s = .next { s.withStream i z with pairing := s.pairing.erase l })
        ∧ (o = none → (∀ w, k.watermark = some w → w < idx.toNat) →
          exec (.line i idx e px d) s = .next (s.withStream i z)))
      ∧ (o = none → (∀ w, k.watermark = some w → w < idx.toNat) → s.streams[i].buffer.length < 8 →
        exec (.line i idx e px d) s = .next (s.withStream i { x with
          contexts := s.streams[i].contexts.set c (some u)
          buffer := s.streams[i].buffer ++ [line (idx.toNat - q.top)
            (h.pixels.map (scalePixel · k.profile.mergeRatio)) h.short d true] }))
      ∧ (∀ w, o = none → k.watermark = some w → idx.toNat ≤ w →
        exec (.line i idx e px d) s = .next (s.withStream i { x with
          contexts := s.streams[i].contexts.set c (some { u with
            counters := { k.counters with late := satInc k.counters.late } })
          stats := { n with linesLate := satInc n.linesLate } })))

/-- What becomes of a line's pixels before the crop (R80 to R84). A listed pixel is replaced from its neighbours two
columns away as received, by its method where both exist and by the one that exists; others keep their value. A
reference row of a capture with black subtraction is summed while its exposure is unfixed and is not lowered; the
first line beyond them fixes the value, the mean or the fixed black, and every line there is lowered by it, ending
at 0; the other exposures are not touched. -/
def Obligations.PixelValues : Prop :=
  (∀ (t : List DefectEntry) (line c : Nat) (px : List Pixel) (v : Pixel) (d : DefectEntry),
    (repairLine t line px).length = px.length
    ∧ (px[c]? = some v → (∀ b ∈ t, ¬(b.row = line ∧ b.column = c)) → (repairLine t line px)[c]? = some v)
    ∧ (px[c]? = some v → t.find? (fun b => b.row == line && b.column == c) = some d →
      (∀ a b, 2 ≤ c → px[c - 2]? = some a → px[c + 2]? = some b → ∃ w, (repairLine t line px)[c]? = some w
        ∧ (d.method = .average → w.toNat = (a.toNat + b.toNat) / 2) ∧ (d.method = .left → w = a)
        ∧ (d.method = .right → w = b))
      ∧ (∀ a, 2 ≤ c → px[c - 2]? = some a → px.length ≤ c + 2 → (repairLine t line px)[c]? = some a)
      ∧ (∀ b, c < 2 → px[c + 2]? = some b → (repairLine t line px)[c]? = some b)
      ∧ (c < 2 → px.length ≤ c + 2 → (repairLine t line px)[c]? = some v)))
  ∧ ∀ (k : Capture) (line : Nat) (e : Exposure) (px : List Pixel) (b : Black), (k.blacks.of e) = b →
    (k.request.subtract = false → k.blacksAfter line e px = k.blacks ∧ k.subtracted line e px = px)
    ∧ (k.request.subtract = true → line < k.profile.referenceRows → k.subtracted line e px = px
      ∧ (b.value = none → (k.blacksAfter line e px).of e = ⟨b.sum + (px.map (·.toNat)).sum, b.count + px.length, none⟩))
    ∧ (k.request.subtract = true → k.profile.referenceRows ≤ line → ∃ w : Pixel,
      ((k.blacksAfter line e px).of e).value = some w ∧ (∀ z, b.value = some z → w = z)
      ∧ (b.value = none → b.count = 0 → w = k.profile.fixedBlack)
      ∧ (b.value = none → 0 < b.count → b.sum / b.count < 65536 → w.toNat = b.sum / b.count)
      ∧ (k.subtracted line e px).map (·.toNat) = px.map fun v => v.toNat - w.toNat)
    ∧ (∀ z : Exposure, z ≠ e → (k.blacksAfter line e px).of z = k.blacks.of z)

/-- The crop gives the columns asked for, 0 past the received pixels (R85), and the three formats lay a row out as
R87 says: two bytes a column low byte first, the high byte of each column, and two columns of 12 bits in three bytes. -/
def Obligations.RowBytes : Prop :=
  (∀ (left cols j : Nat) (px : List Pixel), (crop left cols px).length = cols
    ∧ (j < cols → (crop left cols px)[j]? = some (px[left + j]?.getD 0)))
  ∧ ∀ (px : List Pixel) (j : Nat) (v : Pixel), px[j]? = some v →
    (convertRow .u16 px).length = 2 * px.length ∧ leField (convertRow .u16 px) (2 * j) 2 = v.toNat
    ∧ (convertRow .u8 px).length = px.length ∧ byteAt (convertRow .u8 px) j = v.toNat / 256
    ∧ (px.length % 2 = 0 → 2 * (convertRow .p12 px).length = 3 * px.length
      ∧ ∀ (m : Nat) (w : Pixel), j = 2 * m → px[j + 1]? = some w →
        leField (convertRow .p12 px) (3 * m) 3 = v.toNat / 16 + 4096 * (w.toNat / 16))

/-- A FRAME_END with the frame's number closes it and gives the last line count, with another number or out of frame it
is stray (R47, R44); the line-gap timer closes the frame TRUNCATED once it has run out, and not before (R45, R46). The
capture of a bound frame is FLUSHING (R18): its held lines enter the Line Output Buffer, lowest index first, as far as
there is room, its flush pending if some stay (R106), and a SPLIT one counts the rows with one exposure (R111). Behind
another capture whose flush is pending its lines wait (the model's reading of R106 and R107, log entry 15). -/
def Obligations.FrameCloses : Prop :=
  (∀ (s : State) i p (f : Frame), s.linked i p → s.streams[i].frame = some f →
    ∀ (x : StreamState) (n : Stats), x = { s.streams[i] with frame := none, gapTimer := none } →
      n = { s.streams[i].stats with framesTruncated := satInc s.streams[i].stats.framesTruncated } →
    (∀ number count, number ≠ f.number → exec (.frameEnd i number count) s = .next (s.withStream i { s.streams[i] with
        stats := { s.streams[i].stats with packetsStray := satInc s.streams[i].stats.packetsStray } }).conclude)
    ∧ (f.bound = none →
      (∀ count, exec (.frameEnd i f.number count) s = .next (s.withStream i { x with lastLineCount := count }).conclude)
      ∧ (∀ start, s.streams[i].gapTimer = some start → p.gapTimeout * 1000 ≤ (s.timeBase - start).toNat →
        exec (.lineGapTimeout i) s = .next (s.withStream i { x with stats := n }).conclude))
    ∧ (∀ (c : ContextId) (k : Capture), s.boundTo i f c k → s.flushesAtOnce i c k →
      (∀ count (t : State), t = s.frameFlushed i c k true → exec (.frameEnd i f.number count) s = .next
        (t.withStream i { t.streams[i] with lastLineCount := count }).conclude)
      ∧ (∀ start, s.streams[i].gapTimer = some start → p.gapTimeout * 1000 ≤ (s.timeBase - start).toNat →
        exec (.lineGapTimeout i) s = .next (s.frameFlushed i c k false).conclude))
    ∧ (∀ (c d : ContextId) (k m : Capture), s.boundTo i f c k → d ≠ c → s.streams[i].contexts[d] = some m →
      m.flushPending = true →
      (∀ start, s.streams[i].gapTimer = some start → p.gapTimeout * 1000 ≤ (s.timeBase - start).toNat →
        exec (.lineGapTimeout i) s = .next (s.frameClosed i c k { k.causes with truncated := true } false []
          (decide (s.heldBy i c ≠ [])) s.pairing).conclude)
      ∧ (∀ count (t : State), t = s.frameClosed i c k k.causes true [] (decide (s.heldBy i c ≠ [])) s.pairing →
        exec (.frameEnd i f.number count) s = .next
          (t.withStream i { t.streams[i] with lastLineCount := count }).conclude))
    ∧ (∀ start, s.streams[i].gapTimer = some start → (s.timeBase - start).toNat < p.gapTimeout * 1000 →
      exec (.lineGapTimeout i) s = .next s))
  ∧ ∀ (s : State) i p number count, s.linked i p → s.streams[i].frame = none →
    exec (.frameEnd i number count) s = .next (s.withStream i { s.streams[i] with
      stats := { s.streams[i].stats with packetsStray := satInc s.streams[i].stats.packetsStray } }).conclude

/-! ## Captures and groups -/

/-- A deadline runs out (R40, R16, R15): the ungrouped head finishes EXPIRED, and the requests behind it become head. A
group member is PARKED with EXPIRED, its group breaks (R121, R122; `GroupResolves` says what `breakGroup` does), and the
requests behind it become head. Before its time nothing happens. What becoming head does (R15), `adoptHead`: a MARK
finishes OK and the request behind it becomes head; a CAPTURE that names no group is WAITING with its deadline running; a
CAPTURE that names a group registers with it first (R116, R117): registered in an OPEN or FIXED entry that names its
stream and has its slot empty, it is WAITING likewise; in a BROKEN one it finishes GROUP_BROKEN, PARKED, and otherwise
INVALID, and the request behind it becomes head. -/
def Obligations.DeadlineExpires : Prop :=
  (∀ (s : State) i start (q : Request) rest, s.streams[i].deadline = some start → s.streams[i].prefetch = q :: rest →
    ((s.timeBase - start).toNat < q.deadline * 1000 → exec (.deadlineTimerRunsOut i) s = .next s)
    ∧ (q.deadline * 1000 ≤ (s.timeBase - start).toNat →
      (q.group = none → exec (.deadlineTimerRunsOut i) s = .next
        (adoptHead i rest (s.withReady q.entry (.unbound .expired q.tag 0) q.notify)).conclude)
      ∧ (∀ (g : GroupId) (e : Group), q.group = some g → s.groups[g] = e →
        e.slots[i] = ⟨.registered, some q, none⟩ → e.state = .opened ∨ e.state = .fixed →
        exec (.deadlineTimerRunsOut i) s = .next (adoptHead i rest
          ({ s.withStream i { s.streams[i] with prefetch := rest, deadline := none } with
            groups := s.groups.set g { e with slots := e.slots.set i ⟨.finished, some q, some .expired⟩ }
            holding := s.holding.set q.entry { s.holding[q.entry] with
              state := .parked, report := .unbound .expired q.tag 0 } }.breakGroup g)).conclude)))
  ∧ ∀ (u : State) i (q : Request) (rest : List Request),
    adoptHead i [] u = u.withStream i { u.streams[i] with prefetch := [], deadline := none }
    ∧ (q.kind = .mark → adoptHead i (q :: rest) u = adoptHead i rest (u.withReady q.entry (.unbound .ok q.tag 0) q.notify))
    ∧ (q.kind = .capture → ∀ v : State, v = u.withStream i { u.streams[i] with
        prefetch := q :: rest, deadline := if q.deadline = 0 then none else some u.timeBase } →
      (q.group = none → adoptHead i (q :: rest) u = v)
      ∧ ∀ (g : GroupId) (e : Group), q.group = some g → u.groups[g] = e →
        (e.state = .free ∨ e.mask[i] = false ∨ e.slots[i].progress ≠ .empty → adoptHead i (q :: rest) u =
          adoptHead i rest (u.withReady q.entry (.unbound .invalid q.tag 0) q.notify))
        ∧ (e.mask[i] = true → e.slots[i].progress = .empty →
          (e.state = .opened ∨ e.state = .fixed → adoptHead i (q :: rest) u =
            { v with groups := u.groups.set g { e with slots := e.slots.set i ⟨.registered, some q, none⟩ } })
          ∧ (e.state = .broken → adoptHead i (q :: rest) u = adoptHead i rest { u with
            groups := u.groups.set g { e with slots := e.slots.set i ⟨.finished, some q, some .groupBroken⟩ }
            holding := u.holding.set q.entry { u.holding[q.entry] with
              state := .parked, report := .unbound .groupBroken q.tag 0 } })))

/-- A flush step (R106, R107): with room in the Line Output Buffer the stream's oldest held line whose capture has its
flush pending leaves the store as a long-only row, the flush ends with the capture's last held line, and the step goes
on with the next line; the step of a state with that one held line is written out. With a full buffer, with no held
line whose flush is pending, and in FAULTED and RESETTING (R110, log entry 3) nothing happens. -/
def Obligations.FlushStep : Prop :=
  ∀ (s : State) i,
    (∀ (pre post : List HeldLine) (h : HeldLine) (k : Capture), s.pairing = pre ++ h :: post → h.stream = i →
      (∀ l ∈ pre, l.stream = i → ∀ m, s.streams[i].contexts[l.context] = some m → m.flushPending = false) →
      s.streams[i].contexts[h.context] = some k →
      k.flushPending = true → k.request.assembly = .merge → k.causes.writeFault = false → k.causes.aborted = false →
      s.streams[i].buffer.length < 8 → s.device ≠ .faulted → s.device ≠ .resetting →
      ∀ t : State, t = { s.withStream i { s.streams[i] with
        contexts := s.streams[i].contexts.set h.context (some { k with
          flushPending := (pre ++ post).any fun l => l.ownedBy i h.context })
        buffer := s.streams[i].buffer ++ [{
          context := h.context, plane := .one, row := h.index - k.request.top
          address := k.request.buffer + BitVec.ofNat 64 ((h.index - k.request.top) * k.request.pitch)
          bytes := convertRow k.request.format h.pixels
          short := h.short, damaged := h.damaged, unpaired := true, issued := 0 }] } with pairing := pre ++ post } →
      exec (.flushStep i) s = exec (.flushStep i) t
      ∧ (pre ++ post = [] → exec (.flushStep i) s = .next t))
    ∧ (8 ≤ s.streams[i].buffer.length ∨ s.device = .faulted ∨ s.device = .resetting
        ∨ (∀ l ∈ s.pairing, l.stream = i → ∀ m, s.streams[i].contexts[l.context] = some m → m.flushPending = false) →
      exec (.flushStep i) s = .next s)

/-- A FLUSHING capture with no held line, no buffered line and no write outstanding is FINISHED (R20): its outcome
goes to its entry, its context is free, and an abort of its stream counts it if ABORTED (R169). The outcome of a group
member is PARKED and its slot finished (R121, R125); OK and DAMAGED leave the group, and another status breaks it
(`GroupResolves` says what `breakGroup` does); it resolves in the same event if it awaits no member any longer (R126,
R127). Any other capture stays. -/
def Obligations.CaptureFinishes : Prop :=
  ∀ (s : State) i (c : ContextId),
    (∀ k : Capture, s.streams[i].contexts[c] = some k → k.phase = .flushing → k.outstanding = 0 →
      (∀ h ∈ s.pairing, ¬(h.stream = i ∧ h.context = c)) → (∀ l ∈ s.streams[i].buffer, l.context ≠ c) →
      ∀ a : AdminUnit, a = { s.admin with abort := s.admin.abort.map fun a : Abort =>
          if a.stream = i ∧ k.status = Status.aborted then { a with count := a.count + 1 } else a } →
      (k.request.group = none →
        exec (.captureFinishes i c) s = .next (({ s.withStream i { s.streams[i] with
            contexts := s.streams[i].contexts.set c none } with admin := a }).withReady k.request.entry
          ⟨k.status, k.request.tag, true, k.unsettled, k.frame, k.startTime, k.counters, 0⟩ k.request.notify).conclude)
      ∧ (∀ (g : GroupId) (e : Group), k.request.group = some g → s.groups[g] = e →
        e.slots[i] = ⟨.bound, some k.request, none⟩ →
        ∀ (t : State) (x : Group), x = { e with slots := e.slots.set i ⟨.finished, some k.request, some k.status⟩ } →
        t = { s.withStream i { s.streams[i] with contexts := s.streams[i].contexts.set c none } with
          admin := a
          holding := s.holding.set k.request.entry { s.holding[k.request.entry] with
            state := .parked
            report := ⟨k.status, k.request.tag, true, k.unsettled, k.frame, k.startTime, k.counters, 0⟩ } } →
        (k.status = .ok ∨ k.status = .damaged → exec (.captureFinishes i c) s = .next
          ({ t with groups := s.groups.set g x.timed }.resolveGroup g).conclude)
        ∧ (k.status ≠ .ok → k.status ≠ .damaged →
          (e.state = .opened ∨ e.state = .fixed → exec (.captureFinishes i c) s = .next
            ({ t with groups := s.groups.set g x }.breakGroup g).conclude)
          ∧ (e.state = .broken → exec (.captureFinishes i c) s = .next
            ({ t with groups := s.groups.set g x }.resolveGroup g).conclude))))
    ∧ ((∀ k, s.streams[i].contexts[c] = some k → k.phase = .capturing ∨ 0 < k.outstanding
          ∨ (∃ h ∈ s.pairing, h.stream = i ∧ h.context = c) ∨ ∃ l ∈ s.streams[i].buffer, l.context = c) →
      exec (.captureFinishes i c) s = .next s)

/-- A group resolves once a FIXED entry has every member of its mask finished, or a BROKEN one has none registered or
bound (R126, R127): each member's entry is READY with GROUP_OK or GROUP_BROKEN, no other entry changes, and the
group is FREE (R128); until then nothing happens. `resolveGroup` is that test and that release. `breakGroup` is the break
of an OPEN or FIXED entry (R122, R54), and changes no other: it is BROKEN with its timer stopped, every registered member
finishes GROUP_BROKEN, its slot finished, its entry PARKED and the request off its list, the entry resolves at once if no
member is bound (R127), and then the requests behind those members become head, from the lowest stream up (R15;
`DeadlineExpires` says what `adoptHead` does). -/
def Obligations.GroupResolves : Prop :=
  ∀ (s : State) (g : GroupId) (e : Group), s.groups[g] = e →
    ((e.state = .fixed ∧ ∀ i : StreamId, e.mask[i] = true → e.slots[i].progress = .finished)
        ∨ (e.state = .broken ∧ ∀ i : StreamId, e.slots[i].progress = .empty ∨ e.slots[i].progress = .finished) →
      ∃ h, s.resolveGroup g = { s with holding := h, groups := s.groups.set g .free }
        ∧ exec (.groupResolves g) s = .next (s.resolveGroup g).conclude
        ∧ (∀ x : EntryId, (∀ (i : StreamId) q, e.slots[i].progress = .finished → e.slots[i].request = some q →
            q.entry ≠ x) → h[x] = s.holding[x])
        ∧ (∀ (i : StreamId) q, e.slots[i].progress = .finished → e.slots[i].request = some q →
          (∀ (k : StreamId) r, k ≠ i → e.slots[k].request = some r → r.entry ≠ q.entry) →
          h[q.entry] = { s.holding[q.entry] with
            state := .ready, counted := q.notify
            groupStatus := if e.state = .fixed then .groupOk else .groupBroken }))
    ∧ (e.state = .free ∨ e.state = .opened
        ∨ (e.state = .fixed ∧ ∃ i : StreamId, e.mask[i] = true ∧ e.slots[i].progress ≠ .finished)
        ∨ (e.state = .broken ∧ ∃ i : StreamId, e.slots[i].progress = .registered ∨ e.slots[i].progress = .bound) →
      s.resolveGroup g = s ∧ exec (.groupResolves g) s = .next s)
    ∧ (e.state = .free ∨ e.state = .broken → s.breakGroup g = s)
    ∧ (e.state = .opened ∨ e.state = .fixed → ∃ (x : Vector StreamState 4) (h : Vector HoldingEntry Config.holdingEntries),
      s.breakGroup g = ((List.finRange 4).filter fun i => e.slots[i].progress = .registered).foldl
        (fun u i => adoptHead i u.streams[i].prefetch u) ({ s with
          streams := x, holding := h
          groups := s.groups.set g { e with
            state := .broken, timer := none
            slots := e.slots.map fun m : MemberSlot =>
              if m.progress = SlotProgress.registered then ⟨.finished, m.request, some .groupBroken⟩ else m
            } }.resolveGroup g)
      ∧ (∀ (i : StreamId) q, e.slots[i].progress = .registered → e.slots[i].request = some q →
        x[i] = { s.streams[i] with
          prefetch := s.streams[i].prefetch.filter fun r => decide (r.entry ≠ q.entry), deadline := none }
        ∧ ((∀ (k : StreamId) r, k ≠ i → e.slots[k].progress = .registered → e.slots[k].request = some r →
            r.entry ≠ q.entry) →
          h[q.entry] = { s.holding[q.entry] with state := .parked, report := .unbound .groupBroken q.tag 0 }))
      ∧ (∀ i : StreamId, e.slots[i].progress ≠ .registered ∨ e.slots[i].request = none → x[i] = s.streams[i])
      ∧ ∀ a : EntryId, (∀ (i : StreamId) q, e.slots[i].progress = .registered → e.slots[i].request = some q → q.entry ≠ a) →
        h[a] = s.holding[a])

/-- A group's timer runs out (R115, R122): the OPEN or FIXED entry breaks (`GroupResolves` says what `breakGroup` does): it
is BROKEN and its timer stopped. One registered member, alone in its list, finishes GROUP_BROKEN, its entry PARKED; with
none registered nothing else changes; with no bound member the group resolves in the same event (R127). Before its time,
or with no timer, nothing happens. -/
def Obligations.GroupTimesOut : Prop :=
  ∀ (s : State) (g : GroupId) (e : Group), s.groups[g] = e →
    (∀ start, e.timer = some start → e.state = .opened ∨ e.state = .fixed →
      ((s.timeBase - start).toNat < e.timeout * 1000 → exec (.groupTimeout g) s = .next s)
      ∧ (e.timeout * 1000 ≤ (s.timeBase - start).toNat →
        exec (.groupTimeout g) s = .next (s.breakGroup g).conclude
        ∧ ((∀ i : StreamId, e.slots[i].progress ≠ .registered) → exec (.groupTimeout g) s = .next
          ({ s with groups := s.groups.set g { e with state := .broken, timer := none } }.resolveGroup g).conclude)
        ∧ (∀ (i : StreamId) q, e.slots[i] = ⟨.registered, some q, none⟩ → s.streams[i].prefetch = [q] →
          (∀ k : StreamId, k ≠ i → e.slots[k].progress ≠ .registered) →
          exec (.groupTimeout g) s = .next ({ s.withStream i { s.streams[i] with prefetch := [], deadline := none } with
            groups := s.groups.set g { e with
              state := .broken, timer := none, slots := e.slots.set i ⟨.finished, some q, some .groupBroken⟩ }
            holding := s.holding.set q.entry { s.holding[q.entry] with
              state := .parked, report := .unbound .groupBroken q.tag 0 } }.resolveGroup g).conclude)))
    ∧ (e.timer = none → exec (.groupTimeout g) s = .next s)

/-! ## The Memory Port -/

/-- A data burst (R181, R182, R90, R21): when the rotation grants a stream its oldest line's next burst is issued, up
to 256 bytes and not across a 4096-byte boundary; the first burst of a line counts its row, and the line leaves the
buffer with its last one. With no line buffered anywhere, or no FREE write entry, nothing happens. A burst is as long
as the least of three lengths (R181); the row becomes written, and is counted written, short, damaged once each, and
unpaired by its line's marking (R21, R104); and three kinds of requester are ready for the turn (R182). A counter raised
by 1, once or several times, rises by 1 each time and stays where it is full (R21, R55). -/
def Obligations.DataBurstIssue : Prop :=
  (∀ s : State,
    (∀ (i : StreamId) (g : RequesterId) (l : OutputLine) rest (k : Capture) j (a : Addr) (n : Nat),
      g.val = i.val + 2 → s.device = .running ∨ s.device = .stopping → s.streams[i].buffer = l :: rest →
      (∀ q : RequesterId, (q - s.writeRotation).val < (g - s.writeRotation).val → s.requesterReady q = false) →
      s.nextWrite j → s.streams[i].contexts[l.context] = some k →
      a = l.address + BitVec.ofNat 64 l.issued → n = burstLength a (l.bytes.length - l.issued) →
      exec .dataBurstIssue s = .next { s.withStream i { s.streams[i] with
          buffer := if l.bytes.length ≤ l.issued + n then rest else { l with issued := l.issued + n } :: rest
          contexts := s.streams[i].contexts.set l.context (some (if l.issued = 0
            then { k with outstanding := k.outstanding + 1 }.takeLine l
            else { k with outstanding := k.outstanding + 1 }))
          stats := if l.issued = 0 ∧ l.unpaired = true then { s.streams[i].stats with
            linesUnpaired := satInc s.streams[i].stats.linesUnpaired } else s.streams[i].stats } with
        writeRotation := g + 1
        writes := s.writes.set j (.issued ⟨.dataBurst, some (.capture i l.context), a,
          ((l.bytes.drop l.issued).take n).length, s.timeBase, s.responseTimeout, []⟩)
        handed := some ⟨.write, j, a, ((l.bytes.drop l.issued).take n).length, (l.bytes.drop l.issued).take n⟩ })
    ∧ ((∀ i : StreamId, s.streams[i].buffer = []) ∨ (∀ j : Fin Config.writeEntries, s.writes[j] ≠ .free)
        ∨ (s.device ≠ .running ∧ s.device ≠ .stopping) → exec .dataBurstIssue s = .next s))
  ∧ (∀ (a : Addr) (left n : Nat), n = burstLength a left →
    n ≤ 256 ∧ n ≤ left ∧ n ≤ 4096 - a.toNat % 4096 ∧ (n = 256 ∨ n = left ∨ n = 4096 - a.toNat % 4096))
  ∧ (∀ (k : Capture) (l : OutputLine), ∃ written short damaged,
    k.takeLine l = { k with
      rowsWritten := written, rowsShort := short, rowsDamaged := damaged
      counters := { k.counters with
        written := if l.row ∈ k.rowsWritten then k.counters.written else satInc k.counters.written
        short := if l.short = true ∧ l.row ∉ k.rowsShort then satInc k.counters.short else k.counters.short
        damaged := if l.damaged = true ∧ l.row ∉ k.rowsDamaged then satInc k.counters.damaged else k.counters.damaged
        unpaired := if l.unpaired = true then satInc k.counters.unpaired else k.counters.unpaired } }
    ∧ (∀ r, r ∈ written ↔ r = l.row ∨ r ∈ k.rowsWritten)
    ∧ (∀ r, r ∈ short ↔ (r = l.row ∧ l.short = true) ∨ r ∈ k.rowsShort)
    ∧ ∀ r, r ∈ damaged ↔ (r = l.row ∧ l.damaged = true) ∨ r ∈ k.rowsDamaged)
  ∧ (∀ (w : Nat) (v : BitVec w) (n : Nat), (satInc v).toNat = min (v.toNat + 1) (2 ^ w - 1)
    ∧ (satIncBy n v).toNat = min (v.toNat + n) (2 ^ w - 1))
  ∧ ∀ s : State,
    (s.requesterReady 0 = true ↔ s.postQueue ≠ []
      ∧ (s.completion.post - s.completion.consumed).toNat < s.completion.slots)
    ∧ (s.requesterReady 1 = true ↔ ∃ n, s.admin.snapshot = some n ∧ n.issued = false)
    ∧ ∀ (i : StreamId) (q : RequesterId), q.val = i.val + 2 → (s.requesterReady q = true ↔ s.streams[i].buffer ≠ [])

/-- A data burst is answered (R184, R186, R53, R19): OK lowers its capture's count of outstanding writes; an error
lowers it too, records WRITE_FAULT, and the capture is FLUSHING with its held lines released and its buffered lines
dropped (R109, R91). In FAULTED too its held lines are released and its buffered lines dropped, where R201 has owners act
on their responses, R110 has held slots stay and R92 has buffered lines stay (the model's choice, log entry 23). -/
def Obligations.DataBurstAnswered : Prop :=
  ∀ (s : State) j i (c : ContextId) (k : Capture), s.writingFor j (.capture i c) → s.device ≠ .resetting →
    s.streams[i].contexts[c] = some k →
    (exec (.dataBurstResponse j) s = .next ((s.writeFreed j).withStream i { s.streams[i] with
      contexts := s.streams[i].contexts.set c (some { k with outstanding := k.outstanding - 1 }) }).conclude)
    ∧ ∀ code, exec (.dataBurstError j code) s = .next { (s.writeFreed j).withStream i { s.streams[i] with
        contexts := s.streams[i].contexts.set c (some { k with
          outstanding := k.outstanding - 1, phase := .flushing, flushPending := false
          causes := { k.causes with writeFault := true } })
        frame := s.streams[i].frame.map fun f : Frame => if f.bound = some c then { f with bound := none } else f
        buffer := s.streams[i].buffer.filter fun l => l.context ≠ c } with
      pairing := s.pairing.filter fun h => !h.ownedBy i c }.conclude

/-- Responses that reach no owner: one that names a FREE entry or none, of whatever command, changes nothing (R185); the
STRAY_RESPONSE command is such a response, and in any state changes nothing (the model's choice, log entries 1 and 5); a
late one frees its QUARANTINED entry and lowers the quarantine count (R188); in RESETTING a response frees its entry
(R191). A beat of an ISSUED read that is not its last is collected in its entry, in the order it came, and does nothing
else (R183); by which command it comes is the model's choice (log entry 24). -/
def Obligations.ResponsesWithoutOwner : Prop :=
  ∀ (s : State) (id : Nat) b wa code dir,
    (s.readEntry id = none ∨ s.readEntry id = some .free → ∀ c ∈ [Instr.setupReadResponse id b, .slotReadLands id b,
        .adminSlotLands id b, .slotReadFails id b, .defectBurstLands id b, .defectBurstFails id b],
      exec c s = .next s)
    ∧ (s.writeEntry id = none ∨ s.writeEntry id = some .free → ∀ c ∈ [Instr.statisticsBlockResponse id wa,
        .dataBurstResponse id, .dataBurstError id code, .completionWriteAck id, .completionWriteError id code],
      exec c s = .next s)
    ∧ exec (.strayResponse dir id) s = .next s
    ∧ (∀ (j : Fin Config.readEntries) t, s.reads[j] = .issued t → b.last = false →
      ∀ c ∈ [Instr.setupReadResponse j b, .slotReadLands j b, .adminSlotLands j b, .slotReadFails j b,
        .defectBurstLands j b, .defectBurstFails j b],
      exec c s = .next { s with reads := s.reads.set j (.issued { t with beats := t.beats ++ [b] }) })
    ∧ (∀ (j : Fin Config.readEntries) t, s.reads[j] = .quarantined t →
      exec (.lateResponse .read j) s = .next { s.readFreed j with quarantine := s.quarantine - 1 }.conclude)
    ∧ (∀ (j : Fin Config.writeEntries) t, s.writes[j] = .quarantined t →
      exec (.lateResponse .write j) s = .next { s.writeFreed j with quarantine := s.quarantine - 1 }.conclude)
    ∧ (s.device = .resetting →
      (∀ (j : Fin Config.readEntries) t, s.reads[j] = .issued t →
        exec (.resettingResponse .read j) s = .next (s.readFreed j).conclude)
      ∧ (∀ (j : Fin Config.writeEntries) t, s.writes[j] = .issued t →
        exec (.resettingResponse .write j) s = .next (s.writeFreed j).conclude))

/-- A response timeout (R187, R189): its owner fails as by an error (R186), its entry is QUARANTINED without an owner,
and the quarantine count rises; the ninth quarantined entry faults the device with cause QUARANTINE, unless it is
FAULTED already. The owner of a write is a data burst's capture (WRITE_FAULT, its buffered lines dropped, R53, R91, and
its held lines released, R109, both in FAULTED too: the model's choice there, log entry 23), the statistics
block (READ_STATS completes WRITE_FAULT, R174) or a completion write (FAULTED, COMPLETION_WRITE, R150); of a read, a
stream's slot (FETCH_FAULT, its ring HALTED, R142), an admin slot (FAULTED, ADMIN_FETCH), a defect burst (the load
fails, READ_FAULT once no read is outstanding, R167) or the setup read (FAULTED, SETUP_READ, R132). Before its time, and
in RESETTING, nothing happens. -/
def Obligations.ResponseTimesOut : Prop :=
  ∀ (s : State) (t : Transaction),
    (∀ j, s.writing j t →
      (s.device = .resetting ∨ (s.timeBase - t.issueTime).toNat < t.timeout * 1000 →
        exec (.responseTimeout .write j) s = .next s)
      ∧ (s.device ≠ .resetting → t.timeout * 1000 ≤ (s.timeBase - t.issueTime).toNat →
        ∀ u : State, u = { s with
          writes := s.writes.set j (.quarantined { t with owner := none }), quarantine := s.quarantine + 1 } →
        (∀ i (c : ContextId) (k : Capture), t.owner = some (.capture i c) → s.streams[i].contexts[c] = some k →
          ∃ r, exec (.responseTimeout .write j) s = .next r ∧ s.quarantinesTo r { u.withStream i { s.streams[i] with
            contexts := s.streams[i].contexts.set c (some { k with
              outstanding := k.outstanding - 1, phase := .flushing, flushPending := false
              causes := { k.causes with writeFault := true } })
            frame := s.streams[i].frame.map fun f : Frame => if f.bound = some c then { f with bound := none } else f
            buffer := s.streams[i].buffer.filter fun l => l.context ≠ c } with
          pairing := s.pairing.filter fun h => !h.ownedBy i c })
        ∧ (∀ cmd : AdminCommand, t.owner = some .statistics → s.admin.executing = some cmd →
          ∃ r, exec (.responseTimeout .write j) s = .next r ∧ s.quarantinesTo r (u.adminDone cmd.entry cmd.tag .writeFault 0))
        ∧ (∀ e, t.owner = some (.completion e) →
          (s.device = .faulted → exec (.responseTimeout .write j) s = .next u.conclude)
          ∧ (s.device ≠ .faulted → ∃ v, exec (.responseTimeout .write j) s = .next v ∧ v.allLanesOff
            ∧ v.outside = (u.withFault .completionWrite).outside))))
    ∧ (∀ j, s.reading j t →
      (s.device = .resetting ∨ (s.timeBase - t.issueTime).toNat < t.timeout * 1000 →
        exec (.responseTimeout .read j) s = .next s)
      ∧ (s.device ≠ .resetting → t.timeout * 1000 ≤ (s.timeBase - t.issueTime).toNat →
        ∀ u : State, u = { s with
          reads := s.reads.set j (.quarantined { t with owner := none }), quarantine := s.quarantine + 1 } →
        (∀ e i, t.owner = some (.slot e) → ringOfEntry e = ringOfStream i →
          s.rings[ringOfStream i].state = .active ∨ s.rings[ringOfStream i].state = .halted →
          ∃ r, exec (.responseTimeout .read j) s = .next r ∧ s.quarantinesTo r ({ u with
            rings := s.rings.set (ringOfStream i) { s.rings[ringOfStream i] with state := .halted, inFlight := false }
            }.withReady e (.unbound .fetchFault 0 0) true))
        ∧ (∀ e, t.owner = some (.slot e) → ringOfEntry e = 0 → s.device ≠ .faulted →
          ∃ v, exec (.responseTimeout .read j) s = .next v ∧ v.allLanesOff
            ∧ v.outside = (u.withFault .adminFetch).outside)
        ∧ (∀ n (l : Load) (cmd : AdminCommand), t.owner = some (.load n) → s.admin.load = some l →
          s.admin.executing = some cmd →
          ∃ r, exec (.responseTimeout .read j) s = .next r ∧ s.quarantinesTo r (if l.outstanding ≤ 1 then
              u.adminDone cmd.entry cmd.tag .readFault 0
            else { u with admin := { s.admin with
              load := some { l with outstanding := l.outstanding - 1, failed := true } } }))
        ∧ (t.owner = some .deviceStart → s.device = .starting → s.allLanesOff →
          exec (.responseTimeout .read j) s = .next (u.withFault .setupRead).conclude)))

/-! ## What happens in the same event -/

/-- `conclude` leaves nothing that the rules place in the event at hand (R20, R126, R127, R145, R155, R169, R197,
R198), in a state whose abort, if there is one, belongs to a command in execution. In a state that has nothing left
but records to queue it queues the eligible ones, in order of ring and stream, and changes nothing else (R145). In any
other state it does what the commands of those consequences do (`CaptureFinishes`, `GroupResolves`, `AbortStream`,
`AdminSlotLands` and `StopAndResetEnd` say what), one after the other: the first drained capture finishes, from stream 0
up and context 0 first (the model's choice, log entry 25), then the lowest group that can resolve does, then the abort
completes, the waiting command starts, and the stop or the soft reset ends; this order is the model's choice (log entry
2). An entry
is eligible when it is READY and no earlier one of its ring is RESERVED, PARKED or READY; and where the queued entries
are eligible and no two entries in use of a ring have one place, the queue afterwards holds at most one entry of each
ring (R145). -/
def Obligations.EventsConclude : Prop :=
  ∀ s : State,
    ((s.admin.abort ≠ none → s.admin.executing ≠ none) → s.conclude.settled)
    ∧ ((∀ i c, s.drained i c = false) → (∀ g : GroupId, s.groups[g].resolves = false) → s.abortCanEnd = false →
      s.canStart = false → s.stopEnds = false → s.resetEnds = false → s.conclude = s.enqueue)
    ∧ (∀ (i : StreamId) (c : ContextId), s.drained i c = true →
      (∀ (k : StreamId) (d : ContextId), k < i ∨ (k = i ∧ d < c) → s.drained k d = false) →
      exec (.captureFinishes i c) s = .next s.conclude)
    ∧ ((∀ i c, s.drained i c = false) →
      (∀ g : GroupId, s.groups[g].resolves = true → (∀ k < g, s.groups[k].resolves = false) →
        exec (.groupResolves g) s = .next s.conclude)
      ∧ ((∀ g : GroupId, s.groups[g].resolves = false) →
        (s.abortCanEnd = true → exec .abortStreamCompletes s = .next s.conclude)
        ∧ (s.abortCanEnd = false →
          (s.canStart = true → exec .adminCommandStart s = .next s.conclude)
          ∧ (s.canStart = false →
            (s.stopEnds = true → exec .stopCompletes s = .next s.conclude)
            ∧ (s.resetEnds = true → exec .softResetEnds s = .next s.conclude)))))
    ∧ s.enqueue = { s with postQueue := s.postQueue ++
        (List.finRange Config.holdingEntries).filter fun e => s.eligible e && !s.postQueue.contains e }
    ∧ (∀ e : EntryId, s.eligible e = true ↔ s.holding[e].state = .ready ∧ ∀ f : EntryId,
        ringOfEntry f = ringOfEntry e → s.holding[f].order < s.holding[e].order →
        s.holding[f].state = .free ∨ s.holding[f].state = .posting)
    ∧ ((∀ e ∈ s.postQueue, s.eligible e = true) →
      (∀ e f : EntryId, s.holding[e].state ≠ .free → s.holding[f].state ≠ .free → ringOfEntry e = ringOfEntry f →
        s.holding[e].order = s.holding[f].order → e = f) →
      (∀ e ∈ s.enqueue.postQueue, ∀ f ∈ s.enqueue.postQueue, ringOfEntry e = ringOfEntry f → e = f)
      ∧ (s.postQueue.Nodup → s.enqueue.postQueue.length ≤ 5))

/-! ## Values and layouts -/

/-- `F` is equal to `n` when they are the same number, ahead of it when (F - n) mod 65536 is 1..32767, and behind it
otherwise (R2). -/
def Obligations.FrameNumbersOrdered : Prop :=
  ∀ f n : Half,
    (frameOrder f n = .equal ↔ f = n)
    ∧ (frameOrder f n = .ahead ↔ ∃ k : Nat, 1 ≤ k ∧ k ≤ 32767 ∧ f = n + BitVec.ofNat 16 k)
    ∧ (frameOrder f n = .behind ↔ ∃ k : Nat, 1 ≤ k ∧ k ≤ 32768 ∧ n = f + BitVec.ofNat 16 k)

/-- The status of a capture that bound a frame is the first that applies of WRITE_FAULT, ABORTED, LINK_LOST,
TRUNCATED, SHORT, DAMAGED, OK (R22); SHORT applies when fewer rows than the window's were written, or a row was
short or overrun, and DAMAGED when a row was damaged. -/
def Obligations.StatusPrecedence : Prop :=
  ∀ (k : Capture) (isShort isDamaged : Prop),
    (isShort ↔ k.counters.written.toNat < k.request.rows ∨ k.counters.short ≠ 0 ∨ k.counters.overrun ≠ 0) →
    (isDamaged ↔ k.counters.damaged ≠ 0) →
    (k.status = .writeFault ↔ k.causes.writeFault = true)
    ∧ (k.status = .aborted ↔ k.causes.writeFault = false ∧ k.causes.aborted = true)
    ∧ (k.status = .linkLost ↔ k.causes.writeFault = false ∧ k.causes.aborted = false ∧ k.causes.linkLost = true)
    ∧ (k.causes.writeFault = false → k.causes.aborted = false → k.causes.linkLost = false →
      (k.status = .truncated ↔ k.causes.truncated = true)
      ∧ (k.causes.truncated = false →
        (k.status = .short ↔ isShort) ∧ (k.status = .damaged ↔ ¬isShort ∧ isDamaged)
        ∧ (k.status = .ok ↔ ¬isShort ∧ ¬isDamaged)))

/-- A completion record is 32 bytes, each field little-endian at its offset, each code as the table gives it (R211). -/
def Obligations.CompletionRecordLayout : Prop :=
  ∀ (source : RingId) (e : HoldingEntry) (lap : Bool) (b : List Byte), b = completionRecord source e lap →
    e.slotIndex < 65536 →
    b.length = 32 ∧ byteAt b 0 = source.val
    ∧ byteAt b 1 = [Status.ok, .short, .damaged, .truncated, .linkLost, .aborted, .writeFault, .expired, .missed, .invalid,
        .groupBroken, .fetchFault, .busy, .noResource, .tableError, .readFault].idxOf e.report.status
    ∧ byteAt b 2 = [GroupStatus.none, .groupOk, .groupBroken].idxOf e.groupStatus
    ∧ (byteAt b 3).testBit 0 = e.report.framePresent ∧ (byteAt b 3).testBit 1 = e.report.unsettled
    ∧ (byteAt b 3).testBit 7 = lap ∧ (∀ k, 2 ≤ k → k ≤ 6 → (byteAt b 3).testBit k = false)
    ∧ leField b 4 2 = e.slotIndex ∧ leField b 6 2 = e.report.frame.toNat ∧ leField b 8 4 = e.report.tag.toNat
    ∧ leField b 12 4 = e.report.startTime.toNat ∧ leField b 16 2 = e.report.counters.written.toNat
    ∧ leField b 18 2 = e.report.counters.short.toNat ∧ leField b 20 2 = e.report.counters.damaged.toNat
    ∧ leField b 22 2 = e.report.counters.unpaired.toNat ∧ leField b 24 2 = e.report.counters.late.toNat
    ∧ leField b 26 2 = e.report.counters.overrun.toNat ∧ leField b 28 4 = e.report.detail.toNat

/-- What a host lays out is what the LA4 reads (R209, R210, R12, R156): every CAPTURE request that passes its checks,
every MARK, and every admin command whose arguments fit their fields. An admin record is well-formed just when its code
names one of the nine commands, its target lies in that command's range, and every byte and bit the command does not use
is zero; its arguments then stand at their offsets (R156, R210). -/
def Obligations.RecordsReadBack : Prop :=
  (∀ q : Request, q.kind = .capture → q.fits = true → (q.selector = .next → q.number = 0) →
    (q.group ≠ none → q.selector = .next) → q.deadline < 65536 → q.length < 2 ^ 64 →
    validateRequest q.entry (requestRecord q) = some q)
  ∧ (∀ (e : EntryId) (tag : Word) (notify : Bool), ∃ q, validateRequest e (markRecord tag notify) = some q
    ∧ q.entry = e ∧ q.kind = .mark ∧ q.tag = tag ∧ q.notify = notify)
  ∧ (∀ (tag : Word) (op : AdminOp), op.fits = true →
    readAdminOp (adminRecord tag op) = some op ∧ slotTag (adminRecord tag op) = tag)
  ∧ ∀ (r : List Byte) (is : Nat → Bool → Nat → Prop), (∀ code flag n, is code flag n ↔ byteAt r 0 = code
      ∧ (byteAt r 2 = 0 ∨ (flag = true ∧ byteAt r 2 = 1)) ∧ byteAt r 3 = 0 ∧ ∀ k, n ≤ k → k < 64 → byteAt r k = 0) →
    (∀ i base log, readAdminOp r = some (.createRing i base log) ↔ is 1 false 17 ∧ byteAt r 1 = i.val
      ∧ leField r 8 8 = base.toNat ∧ byteAt r 16 = log)
    ∧ (∀ i, readAdminOp r = some (.deleteRing i) ↔ is 2 false 8 ∧ byteAt r 1 = i.val)
    ∧ (∀ i on f, readAdminOp r = some (.configureStream i on f) ↔ is 3 true 24 ∧ byteAt r 1 = i.val
      ∧ byteAt r 2 = on.toNat ∧ byteAt r 8 = f.profileId.toNat ∧ byteAt r 9 = f.layout.toNat
      ∧ byteAt r 10 = f.maxLag.toNat ∧ byteAt r 11 = f.quota.toNat ∧ leField r 12 2 = f.lineLength.toNat
      ∧ leField r 14 2 = f.frameHeight.toNat ∧ byteAt r 16 = f.mergeRatio.toNat ∧ byteAt r 17 = f.settleFrames.toNat
      ∧ byteAt r 18 = f.referenceRows.toNat ∧ byteAt r 19 = f.gapTimeout.toNat ∧ leField r 20 2 = f.knee.toNat
      ∧ leField r 22 2 = f.fixedBlack.toNat)
    ∧ (∀ i list count, readAdminOp r = some (.loadDefects i list count) ↔ is 4 false 18 ∧ byteAt r 1 = i.val
      ∧ leField r 8 8 = list.toNat ∧ leField r 16 2 = count)
    ∧ (∀ i, readAdminOp r = some (.abortStream i) ↔ is 5 false 8 ∧ byteAt r 1 = i.val)
    ∧ (∀ i skip, readAdminOp r = some (.resumeStream i skip) ↔ is 6 true 8 ∧ byteAt r 1 = i.val
      ∧ byteAt r 2 = skip.toNat)
    ∧ (∀ g mask timeout, readAdminOp r = some (.openGroup g mask timeout) ↔ is 7 false 12 ∧ byteAt r 1 = g.val + 1
      ∧ byteAt r 8 = mask.toNat ∧ byteAt r 9 = 0 ∧ leField r 10 2 = timeout)
    ∧ (∀ g, readAdminOp r = some (.closeGroup g) ↔ is 8 false 8 ∧ byteAt r 1 = g.val + 1)
    ∧ (∀ i block clear, readAdminOp r = some (.readStats i block clear) ↔ is 9 true 16 ∧ byteAt r 1 = i.val
      ∧ leField r 8 8 = block.toNat ∧ byteAt r 2 = clear.toNat)

/-! ## What holds at reset and is kept by every step -/

/-- Every invariant below holds at reset. -/
def Obligations.ResetFits : Prop :=
  State.reset.lineFollows ∧ State.reset.deviceFits ∧ State.reset.startFits ∧ State.reset.ringsBounded
  ∧ (∀ i, State.reset.streamFits i) ∧ State.reset.quarantineCounts ∧ State.reset.ownersFit ∧ State.reset.boundsFit
  ∧ State.reset.listsFit ∧ State.reset.entriesHeld

/-- The interrupt line is asserted just when some bit is set in both interrupt registers, after every step (R205). -/
def Obligations.StepKeepsInterruptLine : Prop :=
  ∀ s t : State, s.lineFollows → step s = .next t → t.lineFollows

/-- Every step keeps the device state and what goes with it: SOFT_RESET in RESETTING alone, a fault cause in FAULTED
and RESETTING alone, at most 8 entries quarantined outside FAULTED, and the setup read in its own moment. -/
def Obligations.StepKeepsDeviceState : Prop :=
  ∀ s t : State, s.deviceFits → s.startFits → step s = .next t → t.deviceFits ∧ t.startFits

/-- Every step keeps every stream fit: its lane in OFF unless the device is RUNNING and the lane enabled, a receive
phase in RUN alone, a frame in progress only in RUN, the line-gap timer running with the frame. -/
def Obligations.StepKeepsStreams : Prop :=
  ∀ s t : State, (∀ i, s.streamFits i) → step s = .next t → ∀ i, t.streamFits i

/-- Every step keeps the counts: no ring holds more pending requests than slots (R135), the completion ring no more
unread records than slots (R148), and the quarantine count is the number of QUARANTINED entries (R187, R188, R191). It
keeps every ISSUED entry outside RESETTING with its owner (R187, R191), and the bounds of the Line Output Buffers (8,
R89), of the reservations (128, R95) and of the post queue. An entry new in the post queue is eligible (R145). It keeps
the bound of the prefetch lists, at most 4 requests, with the one slot read of a ring that the bound rests on (R14, R137),
where the setup read has its own moment and the entries of ISSUED slot reads and completion writes are RESERVED and
POSTING (R139, R146), a premise that no statement keeps. A prefetch list grows only by the landing of a slot read of its stream, outside STOPPING, FAULTED and RESETTING,
and then by one (R14, R140). -/
def Obligations.StepKeepsCounts : Prop :=
  ∀ s t : State, step s = .next t →
    (s.ringsBounded → t.ringsBounded) ∧ (s.quarantineCounts → t.quarantineCounts) ∧ (s.ownersFit → t.ownersFit)
    ∧ (s.boundsFit → t.boundsFit)
    ∧ (s.startFits → s.entriesHeld → s.listsFit → t.listsFit)
    ∧ (∀ e ∈ t.postQueue, e ∈ s.postQueue ∨ t.eligible e = true)
    ∧ ∀ i : StreamId, t.streams[i].prefetch.length ≤ s.streams[i].prefetch.length
      ∨ (t.streams[i].prefetch.length = s.streams[i].prefetch.length + 1
        ∧ s.device ≠ .stopping ∧ s.device ≠ .faulted ∧ s.device ≠ .resetting
        ∧ ∃ (j : Fin Config.readEntries) (e : EntryId) (b : Beat) (rest : List Instr),
          s.pending = .slotReadLands j b :: rest ∧ s.readingFor j (.slot e) ∧ ringOfEntry e = ringOfStream i)
end

