-- ==== Sys2Proof/Laws/State.lean ====
section
/-! SUPPORT. What each update of the machine's state leaves in each field, for `simp`. -/

namespace Sys2Proof.Machine

variable (s : State)

/-! ## `State.onStream` -/

@[simp] theorem State.onStream_device (i : StreamId) (f : StreamState → StreamState) : (s.onStream i f).device = s.device := rfl
@[simp] theorem State.onStream_cause (i : StreamId) (f : StreamState → StreamState) : (s.onStream i f).cause = s.cause := rfl
@[simp] theorem State.onStream_enable (i : StreamId) (f : StreamState → StreamState) : (s.onStream i f).enable = s.enable := rfl
@[simp] theorem State.onStream_softReset (i : StreamId) (f : StreamState → StreamState) : (s.onStream i f).softReset = s.softReset := rfl
@[simp] theorem State.onStream_enableDropped (i : StreamId) (f : StreamState → StreamState) : (s.onStream i f).enableDropped = s.enableDropped := rfl
@[simp] theorem State.onStream_setupAddress (i : StreamId) (f : StreamState → StreamState) : (s.onStream i f).setupAddress = s.setupAddress := rfl
@[simp] theorem State.onStream_irqStatus (i : StreamId) (f : StreamState → StreamState) : (s.onStream i f).irqStatus = s.irqStatus := rfl
@[simp] theorem State.onStream_irqEnable (i : StreamId) (f : StreamState → StreamState) : (s.onStream i f).irqEnable = s.irqEnable := rfl
@[simp] theorem State.onStream_irqLine (i : StreamId) (f : StreamState → StreamState) : (s.onStream i f).irqLine = s.irqLine := rfl
@[simp] theorem State.onStream_timeBase (i : StreamId) (f : StreamState → StreamState) : (s.onStream i f).timeBase = s.timeBase := rfl
@[simp] theorem State.onStream_setup (i : StreamId) (f : StreamState → StreamState) : (s.onStream i f).setup = s.setup := rfl
@[simp] theorem State.onStream_rings (i : StreamId) (f : StreamState → StreamState) : (s.onStream i f).rings = s.rings := rfl
@[simp] theorem State.onStream_completion (i : StreamId) (f : StreamState → StreamState) : (s.onStream i f).completion = s.completion := rfl
@[simp] theorem State.onStream_holding (i : StreamId) (f : StreamState → StreamState) : (s.onStream i f).holding = s.holding := rfl
@[simp] theorem State.onStream_postQueue (i : StreamId) (f : StreamState → StreamState) : (s.onStream i f).postQueue = s.postQueue := rfl
@[simp] theorem State.onStream_fetchRotation (i : StreamId) (f : StreamState → StreamState) : (s.onStream i f).fetchRotation = s.fetchRotation := rfl
@[simp] theorem State.onStream_coalescingCount (i : StreamId) (f : StreamState → StreamState) : (s.onStream i f).coalescingCount = s.coalescingCount := rfl
@[simp] theorem State.onStream_coalescingTimer (i : StreamId) (f : StreamState → StreamState) : (s.onStream i f).coalescingTimer = s.coalescingTimer := rfl
@[simp] theorem State.onStream_admin (i : StreamId) (f : StreamState → StreamState) : (s.onStream i f).admin = s.admin := rfl
@[simp] theorem State.onStream_streams (i : StreamId) (f : StreamState → StreamState) : (s.onStream i f).streams = s.streams.set i (f s.streams[i]) := rfl
@[simp] theorem State.onStream_pairing (i : StreamId) (f : StreamState → StreamState) : (s.onStream i f).pairing = s.pairing := rfl
@[simp] theorem State.onStream_groups (i : StreamId) (f : StreamState → StreamState) : (s.onStream i f).groups = s.groups := rfl
@[simp] theorem State.onStream_reads (i : StreamId) (f : StreamState → StreamState) : (s.onStream i f).reads = s.reads := rfl
@[simp] theorem State.onStream_writes (i : StreamId) (f : StreamState → StreamState) : (s.onStream i f).writes = s.writes := rfl
@[simp] theorem State.onStream_quarantine (i : StreamId) (f : StreamState → StreamState) : (s.onStream i f).quarantine = s.quarantine := rfl
@[simp] theorem State.onStream_writeRotation (i : StreamId) (f : StreamState → StreamState) : (s.onStream i f).writeRotation = s.writeRotation := rfl
@[simp] theorem State.onStream_handed (i : StreamId) (f : StreamState → StreamState) : (s.onStream i f).handed = s.handed := rfl
@[simp] theorem State.onStream_pending (i : StreamId) (f : StreamState → StreamState) : (s.onStream i f).pending = s.pending := rfl

/-! ## `State.onEntry` -/

@[simp] theorem State.onEntry_device (e : EntryId) (f : HoldingEntry → HoldingEntry) : (s.onEntry e f).device = s.device := rfl
@[simp] theorem State.onEntry_cause (e : EntryId) (f : HoldingEntry → HoldingEntry) : (s.onEntry e f).cause = s.cause := rfl
@[simp] theorem State.onEntry_enable (e : EntryId) (f : HoldingEntry → HoldingEntry) : (s.onEntry e f).enable = s.enable := rfl
@[simp] theorem State.onEntry_softReset (e : EntryId) (f : HoldingEntry → HoldingEntry) : (s.onEntry e f).softReset = s.softReset := rfl
@[simp] theorem State.onEntry_enableDropped (e : EntryId) (f : HoldingEntry → HoldingEntry) : (s.onEntry e f).enableDropped = s.enableDropped := rfl
@[simp] theorem State.onEntry_setupAddress (e : EntryId) (f : HoldingEntry → HoldingEntry) : (s.onEntry e f).setupAddress = s.setupAddress := rfl
@[simp] theorem State.onEntry_irqStatus (e : EntryId) (f : HoldingEntry → HoldingEntry) : (s.onEntry e f).irqStatus = s.irqStatus := rfl
@[simp] theorem State.onEntry_irqEnable (e : EntryId) (f : HoldingEntry → HoldingEntry) : (s.onEntry e f).irqEnable = s.irqEnable := rfl
@[simp] theorem State.onEntry_irqLine (e : EntryId) (f : HoldingEntry → HoldingEntry) : (s.onEntry e f).irqLine = s.irqLine := rfl
@[simp] theorem State.onEntry_timeBase (e : EntryId) (f : HoldingEntry → HoldingEntry) : (s.onEntry e f).timeBase = s.timeBase := rfl
@[simp] theorem State.onEntry_setup (e : EntryId) (f : HoldingEntry → HoldingEntry) : (s.onEntry e f).setup = s.setup := rfl
@[simp] theorem State.onEntry_rings (e : EntryId) (f : HoldingEntry → HoldingEntry) : (s.onEntry e f).rings = s.rings := rfl
@[simp] theorem State.onEntry_completion (e : EntryId) (f : HoldingEntry → HoldingEntry) : (s.onEntry e f).completion = s.completion := rfl
@[simp] theorem State.onEntry_holding (e : EntryId) (f : HoldingEntry → HoldingEntry) : (s.onEntry e f).holding = s.holding.set e (f s.holding[e]) := rfl
@[simp] theorem State.onEntry_postQueue (e : EntryId) (f : HoldingEntry → HoldingEntry) : (s.onEntry e f).postQueue = s.postQueue := rfl
@[simp] theorem State.onEntry_fetchRotation (e : EntryId) (f : HoldingEntry → HoldingEntry) : (s.onEntry e f).fetchRotation = s.fetchRotation := rfl
@[simp] theorem State.onEntry_coalescingCount (e : EntryId) (f : HoldingEntry → HoldingEntry) : (s.onEntry e f).coalescingCount = s.coalescingCount := rfl
@[simp] theorem State.onEntry_coalescingTimer (e : EntryId) (f : HoldingEntry → HoldingEntry) : (s.onEntry e f).coalescingTimer = s.coalescingTimer := rfl
@[simp] theorem State.onEntry_admin (e : EntryId) (f : HoldingEntry → HoldingEntry) : (s.onEntry e f).admin = s.admin := rfl
@[simp] theorem State.onEntry_streams (e : EntryId) (f : HoldingEntry → HoldingEntry) : (s.onEntry e f).streams = s.streams := rfl
@[simp] theorem State.onEntry_pairing (e : EntryId) (f : HoldingEntry → HoldingEntry) : (s.onEntry e f).pairing = s.pairing := rfl
@[simp] theorem State.onEntry_groups (e : EntryId) (f : HoldingEntry → HoldingEntry) : (s.onEntry e f).groups = s.groups := rfl
@[simp] theorem State.onEntry_reads (e : EntryId) (f : HoldingEntry → HoldingEntry) : (s.onEntry e f).reads = s.reads := rfl
@[simp] theorem State.onEntry_writes (e : EntryId) (f : HoldingEntry → HoldingEntry) : (s.onEntry e f).writes = s.writes := rfl
@[simp] theorem State.onEntry_quarantine (e : EntryId) (f : HoldingEntry → HoldingEntry) : (s.onEntry e f).quarantine = s.quarantine := rfl
@[simp] theorem State.onEntry_writeRotation (e : EntryId) (f : HoldingEntry → HoldingEntry) : (s.onEntry e f).writeRotation = s.writeRotation := rfl
@[simp] theorem State.onEntry_handed (e : EntryId) (f : HoldingEntry → HoldingEntry) : (s.onEntry e f).handed = s.handed := rfl
@[simp] theorem State.onEntry_pending (e : EntryId) (f : HoldingEntry → HoldingEntry) : (s.onEntry e f).pending = s.pending := rfl

/-! ## `State.onRing` -/

@[simp] theorem State.onRing_device (r : RingId) (f : Ring → Ring) : (s.onRing r f).device = s.device := rfl
@[simp] theorem State.onRing_cause (r : RingId) (f : Ring → Ring) : (s.onRing r f).cause = s.cause := rfl
@[simp] theorem State.onRing_enable (r : RingId) (f : Ring → Ring) : (s.onRing r f).enable = s.enable := rfl
@[simp] theorem State.onRing_softReset (r : RingId) (f : Ring → Ring) : (s.onRing r f).softReset = s.softReset := rfl
@[simp] theorem State.onRing_enableDropped (r : RingId) (f : Ring → Ring) : (s.onRing r f).enableDropped = s.enableDropped := rfl
@[simp] theorem State.onRing_setupAddress (r : RingId) (f : Ring → Ring) : (s.onRing r f).setupAddress = s.setupAddress := rfl
@[simp] theorem State.onRing_irqStatus (r : RingId) (f : Ring → Ring) : (s.onRing r f).irqStatus = s.irqStatus := rfl
@[simp] theorem State.onRing_irqEnable (r : RingId) (f : Ring → Ring) : (s.onRing r f).irqEnable = s.irqEnable := rfl
@[simp] theorem State.onRing_irqLine (r : RingId) (f : Ring → Ring) : (s.onRing r f).irqLine = s.irqLine := rfl
@[simp] theorem State.onRing_timeBase (r : RingId) (f : Ring → Ring) : (s.onRing r f).timeBase = s.timeBase := rfl
@[simp] theorem State.onRing_setup (r : RingId) (f : Ring → Ring) : (s.onRing r f).setup = s.setup := rfl
@[simp] theorem State.onRing_rings (r : RingId) (f : Ring → Ring) : (s.onRing r f).rings = s.rings.set r (f s.rings[r]) := rfl
@[simp] theorem State.onRing_completion (r : RingId) (f : Ring → Ring) : (s.onRing r f).completion = s.completion := rfl
@[simp] theorem State.onRing_holding (r : RingId) (f : Ring → Ring) : (s.onRing r f).holding = s.holding := rfl
@[simp] theorem State.onRing_postQueue (r : RingId) (f : Ring → Ring) : (s.onRing r f).postQueue = s.postQueue := rfl
@[simp] theorem State.onRing_fetchRotation (r : RingId) (f : Ring → Ring) : (s.onRing r f).fetchRotation = s.fetchRotation := rfl
@[simp] theorem State.onRing_coalescingCount (r : RingId) (f : Ring → Ring) : (s.onRing r f).coalescingCount = s.coalescingCount := rfl
@[simp] theorem State.onRing_coalescingTimer (r : RingId) (f : Ring → Ring) : (s.onRing r f).coalescingTimer = s.coalescingTimer := rfl
@[simp] theorem State.onRing_admin (r : RingId) (f : Ring → Ring) : (s.onRing r f).admin = s.admin := rfl
@[simp] theorem State.onRing_streams (r : RingId) (f : Ring → Ring) : (s.onRing r f).streams = s.streams := rfl
@[simp] theorem State.onRing_pairing (r : RingId) (f : Ring → Ring) : (s.onRing r f).pairing = s.pairing := rfl
@[simp] theorem State.onRing_groups (r : RingId) (f : Ring → Ring) : (s.onRing r f).groups = s.groups := rfl
@[simp] theorem State.onRing_reads (r : RingId) (f : Ring → Ring) : (s.onRing r f).reads = s.reads := rfl
@[simp] theorem State.onRing_writes (r : RingId) (f : Ring → Ring) : (s.onRing r f).writes = s.writes := rfl
@[simp] theorem State.onRing_quarantine (r : RingId) (f : Ring → Ring) : (s.onRing r f).quarantine = s.quarantine := rfl
@[simp] theorem State.onRing_writeRotation (r : RingId) (f : Ring → Ring) : (s.onRing r f).writeRotation = s.writeRotation := rfl
@[simp] theorem State.onRing_handed (r : RingId) (f : Ring → Ring) : (s.onRing r f).handed = s.handed := rfl
@[simp] theorem State.onRing_pending (r : RingId) (f : Ring → Ring) : (s.onRing r f).pending = s.pending := rfl

/-! ## `State.onGroup` -/

@[simp] theorem State.onGroup_device (g : GroupId) (f : Group → Group) : (s.onGroup g f).device = s.device := rfl
@[simp] theorem State.onGroup_cause (g : GroupId) (f : Group → Group) : (s.onGroup g f).cause = s.cause := rfl
@[simp] theorem State.onGroup_enable (g : GroupId) (f : Group → Group) : (s.onGroup g f).enable = s.enable := rfl
@[simp] theorem State.onGroup_softReset (g : GroupId) (f : Group → Group) : (s.onGroup g f).softReset = s.softReset := rfl
@[simp] theorem State.onGroup_enableDropped (g : GroupId) (f : Group → Group) : (s.onGroup g f).enableDropped = s.enableDropped := rfl
@[simp] theorem State.onGroup_setupAddress (g : GroupId) (f : Group → Group) : (s.onGroup g f).setupAddress = s.setupAddress := rfl
@[simp] theorem State.onGroup_irqStatus (g : GroupId) (f : Group → Group) : (s.onGroup g f).irqStatus = s.irqStatus := rfl
@[simp] theorem State.onGroup_irqEnable (g : GroupId) (f : Group → Group) : (s.onGroup g f).irqEnable = s.irqEnable := rfl
@[simp] theorem State.onGroup_irqLine (g : GroupId) (f : Group → Group) : (s.onGroup g f).irqLine = s.irqLine := rfl
@[simp] theorem State.onGroup_timeBase (g : GroupId) (f : Group → Group) : (s.onGroup g f).timeBase = s.timeBase := rfl
@[simp] theorem State.onGroup_setup (g : GroupId) (f : Group → Group) : (s.onGroup g f).setup = s.setup := rfl
@[simp] theorem State.onGroup_rings (g : GroupId) (f : Group → Group) : (s.onGroup g f).rings = s.rings := rfl
@[simp] theorem State.onGroup_completion (g : GroupId) (f : Group → Group) : (s.onGroup g f).completion = s.completion := rfl
@[simp] theorem State.onGroup_holding (g : GroupId) (f : Group → Group) : (s.onGroup g f).holding = s.holding := rfl
@[simp] theorem State.onGroup_postQueue (g : GroupId) (f : Group → Group) : (s.onGroup g f).postQueue = s.postQueue := rfl
@[simp] theorem State.onGroup_fetchRotation (g : GroupId) (f : Group → Group) : (s.onGroup g f).fetchRotation = s.fetchRotation := rfl
@[simp] theorem State.onGroup_coalescingCount (g : GroupId) (f : Group → Group) : (s.onGroup g f).coalescingCount = s.coalescingCount := rfl
@[simp] theorem State.onGroup_coalescingTimer (g : GroupId) (f : Group → Group) : (s.onGroup g f).coalescingTimer = s.coalescingTimer := rfl
@[simp] theorem State.onGroup_admin (g : GroupId) (f : Group → Group) : (s.onGroup g f).admin = s.admin := rfl
@[simp] theorem State.onGroup_streams (g : GroupId) (f : Group → Group) : (s.onGroup g f).streams = s.streams := rfl
@[simp] theorem State.onGroup_pairing (g : GroupId) (f : Group → Group) : (s.onGroup g f).pairing = s.pairing := rfl
@[simp] theorem State.onGroup_groups (g : GroupId) (f : Group → Group) : (s.onGroup g f).groups = s.groups.set g (f s.groups[g]) := rfl
@[simp] theorem State.onGroup_reads (g : GroupId) (f : Group → Group) : (s.onGroup g f).reads = s.reads := rfl
@[simp] theorem State.onGroup_writes (g : GroupId) (f : Group → Group) : (s.onGroup g f).writes = s.writes := rfl
@[simp] theorem State.onGroup_quarantine (g : GroupId) (f : Group → Group) : (s.onGroup g f).quarantine = s.quarantine := rfl
@[simp] theorem State.onGroup_writeRotation (g : GroupId) (f : Group → Group) : (s.onGroup g f).writeRotation = s.writeRotation := rfl
@[simp] theorem State.onGroup_handed (g : GroupId) (f : Group → Group) : (s.onGroup g f).handed = s.handed := rfl
@[simp] theorem State.onGroup_pending (g : GroupId) (f : Group → Group) : (s.onGroup g f).pending = s.pending := rfl

/-! ## `State.withIrq` -/

@[simp] theorem State.withIrq_device (a b : BitVec 5) : (s.withIrq a b).device = s.device := rfl
@[simp] theorem State.withIrq_cause (a b : BitVec 5) : (s.withIrq a b).cause = s.cause := rfl
@[simp] theorem State.withIrq_enable (a b : BitVec 5) : (s.withIrq a b).enable = s.enable := rfl
@[simp] theorem State.withIrq_softReset (a b : BitVec 5) : (s.withIrq a b).softReset = s.softReset := rfl
@[simp] theorem State.withIrq_enableDropped (a b : BitVec 5) : (s.withIrq a b).enableDropped = s.enableDropped := rfl
@[simp] theorem State.withIrq_setupAddress (a b : BitVec 5) : (s.withIrq a b).setupAddress = s.setupAddress := rfl
@[simp] theorem State.withIrq_irqStatus (a b : BitVec 5) : (s.withIrq a b).irqStatus = a := rfl
@[simp] theorem State.withIrq_irqEnable (a b : BitVec 5) : (s.withIrq a b).irqEnable = b := rfl
@[simp] theorem State.withIrq_irqLine (a b : BitVec 5) : (s.withIrq a b).irqLine = lineLevel a b := rfl
@[simp] theorem State.withIrq_timeBase (a b : BitVec 5) : (s.withIrq a b).timeBase = s.timeBase := rfl
@[simp] theorem State.withIrq_setup (a b : BitVec 5) : (s.withIrq a b).setup = s.setup := rfl
@[simp] theorem State.withIrq_rings (a b : BitVec 5) : (s.withIrq a b).rings = s.rings := rfl
@[simp] theorem State.withIrq_completion (a b : BitVec 5) : (s.withIrq a b).completion = s.completion := rfl
@[simp] theorem State.withIrq_holding (a b : BitVec 5) : (s.withIrq a b).holding = s.holding := rfl
@[simp] theorem State.withIrq_postQueue (a b : BitVec 5) : (s.withIrq a b).postQueue = s.postQueue := rfl
@[simp] theorem State.withIrq_fetchRotation (a b : BitVec 5) : (s.withIrq a b).fetchRotation = s.fetchRotation := rfl
@[simp] theorem State.withIrq_coalescingCount (a b : BitVec 5) : (s.withIrq a b).coalescingCount = s.coalescingCount := rfl
@[simp] theorem State.withIrq_coalescingTimer (a b : BitVec 5) : (s.withIrq a b).coalescingTimer = s.coalescingTimer := rfl
@[simp] theorem State.withIrq_admin (a b : BitVec 5) : (s.withIrq a b).admin = s.admin := rfl
@[simp] theorem State.withIrq_streams (a b : BitVec 5) : (s.withIrq a b).streams = s.streams := rfl
@[simp] theorem State.withIrq_pairing (a b : BitVec 5) : (s.withIrq a b).pairing = s.pairing := rfl
@[simp] theorem State.withIrq_groups (a b : BitVec 5) : (s.withIrq a b).groups = s.groups := rfl
@[simp] theorem State.withIrq_reads (a b : BitVec 5) : (s.withIrq a b).reads = s.reads := rfl
@[simp] theorem State.withIrq_writes (a b : BitVec 5) : (s.withIrq a b).writes = s.writes := rfl
@[simp] theorem State.withIrq_quarantine (a b : BitVec 5) : (s.withIrq a b).quarantine = s.quarantine := rfl
@[simp] theorem State.withIrq_writeRotation (a b : BitVec 5) : (s.withIrq a b).writeRotation = s.writeRotation := rfl
@[simp] theorem State.withIrq_handed (a b : BitVec 5) : (s.withIrq a b).handed = s.handed := rfl
@[simp] theorem State.withIrq_pending (a b : BitVec 5) : (s.withIrq a b).pending = s.pending := rfl

/-! ## `State.setTracker` -/

@[simp] theorem State.setTracker_device (d : Direction) (id : Nat) (e : TrackerEntry) : (s.setTracker d id e).device = s.device := by
  cases d <;> rfl
@[simp] theorem State.setTracker_cause (d : Direction) (id : Nat) (e : TrackerEntry) : (s.setTracker d id e).cause = s.cause := by
  cases d <;> rfl
@[simp] theorem State.setTracker_enable (d : Direction) (id : Nat) (e : TrackerEntry) : (s.setTracker d id e).enable = s.enable := by
  cases d <;> rfl
@[simp] theorem State.setTracker_softReset (d : Direction) (id : Nat) (e : TrackerEntry) : (s.setTracker d id e).softReset = s.softReset := by
  cases d <;> rfl
@[simp] theorem State.setTracker_enableDropped (d : Direction) (id : Nat) (e : TrackerEntry) : (s.setTracker d id e).enableDropped = s.enableDropped := by
  cases d <;> rfl
@[simp] theorem State.setTracker_setupAddress (d : Direction) (id : Nat) (e : TrackerEntry) : (s.setTracker d id e).setupAddress = s.setupAddress := by
  cases d <;> rfl
@[simp] theorem State.setTracker_irqStatus (d : Direction) (id : Nat) (e : TrackerEntry) : (s.setTracker d id e).irqStatus = s.irqStatus := by
  cases d <;> rfl
@[simp] theorem State.setTracker_irqEnable (d : Direction) (id : Nat) (e : TrackerEntry) : (s.setTracker d id e).irqEnable = s.irqEnable := by
  cases d <;> rfl
@[simp] theorem State.setTracker_irqLine (d : Direction) (id : Nat) (e : TrackerEntry) : (s.setTracker d id e).irqLine = s.irqLine := by
  cases d <;> rfl
@[simp] theorem State.setTracker_timeBase (d : Direction) (id : Nat) (e : TrackerEntry) : (s.setTracker d id e).timeBase = s.timeBase := by
  cases d <;> rfl
@[simp] theorem State.setTracker_setup (d : Direction) (id : Nat) (e : TrackerEntry) : (s.setTracker d id e).setup = s.setup := by
  cases d <;> rfl
@[simp] theorem State.setTracker_rings (d : Direction) (id : Nat) (e : TrackerEntry) : (s.setTracker d id e).rings = s.rings := by
  cases d <;> rfl
@[simp] theorem State.setTracker_completion (d : Direction) (id : Nat) (e : TrackerEntry) : (s.setTracker d id e).completion = s.completion := by
  cases d <;> rfl
@[simp] theorem State.setTracker_holding (d : Direction) (id : Nat) (e : TrackerEntry) : (s.setTracker d id e).holding = s.holding := by
  cases d <;> rfl
@[simp] theorem State.setTracker_postQueue (d : Direction) (id : Nat) (e : TrackerEntry) : (s.setTracker d id e).postQueue = s.postQueue := by
  cases d <;> rfl
@[simp] theorem State.setTracker_fetchRotation (d : Direction) (id : Nat) (e : TrackerEntry) : (s.setTracker d id e).fetchRotation = s.fetchRotation := by
  cases d <;> rfl
@[simp] theorem State.setTracker_coalescingCount (d : Direction) (id : Nat) (e : TrackerEntry) : (s.setTracker d id e).coalescingCount = s.coalescingCount := by
  cases d <;> rfl
@[simp] theorem State.setTracker_coalescingTimer (d : Direction) (id : Nat) (e : TrackerEntry) : (s.setTracker d id e).coalescingTimer = s.coalescingTimer := by
  cases d <;> rfl
@[simp] theorem State.setTracker_admin (d : Direction) (id : Nat) (e : TrackerEntry) : (s.setTracker d id e).admin = s.admin := by
  cases d <;> rfl
@[simp] theorem State.setTracker_streams (d : Direction) (id : Nat) (e : TrackerEntry) : (s.setTracker d id e).streams = s.streams := by
  cases d <;> rfl
@[simp] theorem State.setTracker_pairing (d : Direction) (id : Nat) (e : TrackerEntry) : (s.setTracker d id e).pairing = s.pairing := by
  cases d <;> rfl
@[simp] theorem State.setTracker_groups (d : Direction) (id : Nat) (e : TrackerEntry) : (s.setTracker d id e).groups = s.groups := by
  cases d <;> rfl
@[simp] theorem State.setTracker_read_reads (id : Nat) (e : TrackerEntry) :
    (s.setTracker .read id e).reads = s.reads.setIfInBounds id e := rfl
@[simp] theorem State.setTracker_write_reads (id : Nat) (e : TrackerEntry) : (s.setTracker .write id e).reads = s.reads := rfl
@[simp] theorem State.setTracker_write_writes (id : Nat) (e : TrackerEntry) :
    (s.setTracker .write id e).writes = s.writes.setIfInBounds id e := rfl
@[simp] theorem State.setTracker_read_writes (id : Nat) (e : TrackerEntry) : (s.setTracker .read id e).writes = s.writes := rfl
@[simp] theorem State.setTracker_quarantine (d : Direction) (id : Nat) (e : TrackerEntry) : (s.setTracker d id e).quarantine = s.quarantine := by
  cases d <;> rfl
@[simp] theorem State.setTracker_writeRotation (d : Direction) (id : Nat) (e : TrackerEntry) : (s.setTracker d id e).writeRotation = s.writeRotation := by
  cases d <;> rfl
@[simp] theorem State.setTracker_handed (d : Direction) (id : Nat) (e : TrackerEntry) : (s.setTracker d id e).handed = s.handed := by
  cases d <;> rfl
@[simp] theorem State.setTracker_pending (d : Direction) (id : Nat) (e : TrackerEntry) : (s.setTracker d id e).pending = s.pending := by
  cases d <;> rfl

/-! ## One element of a vector after an update -/

theorem State.onStream_get (i : StreamId) (f : StreamState → StreamState) : (s.onStream i f).streams[i] = f s.streams[i] := by
  simp

theorem State.onStream_get_ne {i j : StreamId} (h : j ≠ i) (f : StreamState → StreamState) :
    (s.onStream i f).streams[j] = s.streams[j] := by
  have : (i : Nat) ≠ j := fun e => h (Fin.ext e.symm)
  simp [this]

theorem State.onEntry_get (e : EntryId) (f : HoldingEntry → HoldingEntry) : (s.onEntry e f).holding[e] = f s.holding[e] := by
  simp

theorem State.onEntry_get_ne {e g : EntryId} (h : g ≠ e) (f : HoldingEntry → HoldingEntry) :
    (s.onEntry e f).holding[g] = s.holding[g] := by
  have : (e : Nat) ≠ g := fun k => h (Fin.ext k.symm)
  simp [this]

theorem State.onRing_get (r : RingId) (f : Ring → Ring) : (s.onRing r f).rings[r] = f s.rings[r] := by
  simp

theorem State.onRing_get_ne {r q : RingId} (h : q ≠ r) (f : Ring → Ring) : (s.onRing r f).rings[q] = s.rings[q] := by
  have : (r : Nat) ≠ q := fun k => h (Fin.ext k.symm)
  simp [this]

theorem State.onGroup_get (g : GroupId) (f : Group → Group) : (s.onGroup g f).groups[g] = f s.groups[g] := by
  simp

theorem State.onGroup_get_ne {g k : GroupId} (h : k ≠ g) (f : Group → Group) : (s.onGroup g f).groups[k] = s.groups[k] := by
  have : (g : Nat) ≠ k := fun e => h (Fin.ext e.symm)
  simp [this]

end Sys2Proof.Machine
end

