-- ==== Sys2Proof/Laws/Frames.lean ====
section
/-! SUPPORT. What the operations on streams, captures, holding entries and groups leave alone, said once for
every projection of the state that such operations do not move. -/

namespace Sys2Proof.Machine

/-- What a stream keeps while requests and captures come and go: its lane, profiles, marks, timers and
defect tables, and the frame in progress but for the capture bound to it. -/
def StreamState.core (x : StreamState) : StreamState :=
  { x with
    frame := x.frame.map fun f => { f with bound := none }
    prefetch := []
    deadline := none
    contexts := Vector.replicate 2 none
    stats := .zero
    buffer := [] }

/-- A projection that holding entries, groups, held lines, the Admin Unit and what a stream does with its
requests and captures do not move. -/
structure Quiet {γ : Type} (p : State → γ) : Prop where
  entry : ∀ s e f, p (State.onEntry s e f) = p s
  group : ∀ s g f, p (State.onGroup s g f) = p s
  pairing : ∀ (s : State) l, p { s with pairing := l } = p s
  admin : ∀ (s : State) a, p { s with admin := a } = p s
  stream : ∀ (s : State) i f, (f s.streams[i]).core = s.streams[i].core → p (s.onStream i f) = p s

/-- A quiet projection that nothing done to stream `i` itself moves. -/
structure QuietOn (i : StreamId) {γ : Type} (p : State → γ) : Prop extends Quiet p where
  own : ∀ s f, p (State.onStream s i f) = p s

/-- A projection kept by every step of a fold is kept by the fold. -/
theorem foldl_keeps {α β γ : Type} (p : β → γ) (f : β → α → β) (h : ∀ b a, p (f b a) = p b) (l : List α) (b : β) :
    p (l.foldl f b) = p b := by
  induction l generalizing b with
  | nil => rfl
  | cons a l ih => rw [List.foldl_cons, ih, h]

section Quiet

variable {γ : Type} {p : State → γ} (h : Quiet p) (s : State)
include h

/-! ## Holding entries, captures and counters -/

theorem Quiet.entryReady (e : EntryId) (r : Report) (c : Bool) : p (s.entryReady e r c) = p s := h.entry _ _ _
theorem Quiet.entryParked (e : EntryId) (r : Report) : p (s.entryParked e r) = p s := h.entry _ _ _
theorem Quiet.bump (i : StreamId) (f : Stats → Stats) : p (s.bump i f) = p s := h.stream _ _ _ rfl
theorem Quiet.onCapture (i : StreamId) (c : ContextId) (f : Capture → Capture) : p (s.onCapture i c f) = p s :=
  h.stream _ _ _ rfl
theorem Quiet.onCounters (i : StreamId) (c : ContextId) (f : RowCounters → RowCounters) : p (s.onCounters i c f) = p s :=
  h.onCapture s i c _

/-! ## The Group Table and the head of a list -/

theorem Quiet.record (i : StreamId) (q : Request) (r : Report) : p (s.record i q r) = p s := by
  unfold State.record; split <;> simp [h.entryReady, h.entryParked, h.group]

theorem Quiet.register (i : StreamId) (q : Request) : p (s.register i q).1 = p s := by
  unfold State.register
  split
  · rfl
  · dsimp only; repeat' split
    all_goals simp [h.entryReady, h.entryParked, h.group]

theorem Quiet.adoptHead (i : StreamId) (l : List Request) : p (Machine.adoptHead i l s) = p s := by
  induction l generalizing s with
  | nil => exact h.stream _ _ _ rfl
  | cons q l ih =>
    unfold Machine.adoptHead
    split
    · rw [ih, h.entryReady]
    · split
      · next t e => have k := h.register s i q; rw [e] at k; exact (h.stream _ _ _ rfl).trans k
      · next t e => have k := h.register s i q; rw [e] at k; rw [ih]; exact k

theorem Quiet.newHead (i : StreamId) : p (s.newHead i) = p s := h.adoptHead s i _

theorem Quiet.breakMember (g : GroupId) (i : StreamId) : p (s.breakMember g i) = p s := by
  unfold State.breakMember; split
  · rw [h.stream _ _ _ rfl, h.group, h.entryParked]
  · exact h.group _ _ _

theorem Quiet.releaseMember (v : GroupStatus) (e : Group) (i : StreamId) : p (s.releaseMember v e i) = p s := by
  unfold State.releaseMember; split <;> simp [h.entry]

theorem Quiet.resolveGroup (g : GroupId) : p (s.resolveGroup g) = p s := by
  unfold State.resolveGroup
  dsimp only; split
  · rw [h.group, foldl_keeps p _ fun s i => h.releaseMember s _ _ i]
  · rfl

theorem Quiet.breakGroup (g : GroupId) : p (s.breakGroup g) = p s := by
  unfold State.breakGroup
  dsimp only; split
  · rw [foldl_keeps p _ fun s i => h.newHead s i, h.resolveGroup, foldl_keeps p _ fun s i => h.breakMember s g i, h.group]
  · rfl

theorem Quiet.breakGroupsOf (i : StreamId) : p (s.breakGroupsOf i) = p s :=
  foldl_keeps p _ (fun s g => by split <;> simp [h.breakGroup]) _ _

theorem Quiet.memberFinished (g : Option GroupId) (x : Status) : p (s.memberFinished g x) = p s := by
  unfold State.memberFinished; split
  · rfl
  · rw [h.resolveGroup]; split <;> simp [h.group, h.breakGroup]

theorem Quiet.finishHead (i : StreamId) (x : Status) : p (s.finishHead i x) = p s := by
  unfold State.finishHead; split
  · rfl
  · rw [h.newHead, h.memberFinished, h.stream _ _ _ rfl, h.record]

theorem Quiet.claim (g : GroupId) (i : StreamId) (q : Request) (f : Half) (can : Bool) :
    p (s.claim g i q f can).2 = p s := by
  unfold State.claim
  dsimp only; repeat' split
  all_goals simp [h.group]

theorem Quiet.resolveGroups : p s.resolveGroups = p s := foldl_keeps p _ (fun s g => h.resolveGroup s g) _ _

/-! ## The Pixel Path and the Pairing Store -/

theorem Quiet.lostRow (i : StreamId) (c : ContextId) : p (s.lostRow i c) = p s := by
  rw [State.lostRow, h.bump, h.onCounters]
theorem Quiet.lateLine (i : StreamId) (c : ContextId) : p (s.lateLine i c) = p s := by
  rw [State.lateLine, h.bump, h.onCounters]
theorem Quiet.holdLine (l : HeldLine) : p (s.holdLine l) = p s := h.pairing _ _

theorem Quiet.produceRow (i : StreamId) (c : ContextId) (r : Row) : p (s.produceRow i c r) = p s := by
  unfold State.produceRow; repeat' split
  all_goals first
    | rfl
    | rw [h.onCapture, h.stream _ _ _ rfl]
    | rw [h.lostRow]

theorem Quiet.flushDone (i : StreamId) (c : ContextId) : p (s.flushDone i c) = p s := by
  unfold State.flushDone; split <;> simp [h.onCapture]

theorem Quiet.writeHeld (l : HeldLine) : p (s.writeHeld l) = p s := by
  unfold State.writeHeld; split <;> simp [h.flushDone, h.produceRow, h.pairing]

theorem Quiet.releaseHeld (i : StreamId) (c : ContextId) : p (s.releaseHeld i c) = p s := by
  rw [State.releaseHeld, h.onCapture, h.pairing]

theorem Quiet.flushLines (i : StreamId) (l : List HeldLine) : p (Machine.flushLines i l s) = p s := by
  induction l generalizing s with
  | nil => rfl
  | cons a l ih => unfold Machine.flushLines; rw [ih]; split <;> simp [h.writeHeld]

theorem Quiet.flushStream (i : StreamId) : p (s.flushStream i) = p s := h.flushLines s i _

theorem Quiet.flushCapture (i : StreamId) (c : ContextId) : p (s.flushCapture i c) = p s := by
  unfold State.flushCapture; split
  · rfl
  · exact h.flushLines s i _

theorem Quiet.evictFor (l : HeldLine) : p (s.evictFor l) = p s := by
  unfold State.evictFor; repeat' split
  all_goals simp [h.lostRow, h.holdLine, h.bump, h.onCapture, h.writeHeld]

theorem Quiet.longLine (k : Capture) (l : HeldLine) : p (s.longLine k l) = p s := by
  unfold State.longLine; repeat' split
  all_goals simp [h.lateLine, h.holdLine, h.evictFor]

theorem Quiet.shortLine (k : Capture) (l : HeldLine) : p (s.shortLine k l) = p s := by
  unfold State.shortLine
  dsimp only; repeat' split
  all_goals simp [h.produceRow, h.pairing, h.onCapture, h.lateLine]

theorem Quiet.pixelPath (i : StreamId) (c : ContextId) (k : Capture) (n : Nat) (e : Exposure) (px : List Pixel)
    (d : Bool) : p (s.pixelPath i c k n e px d) = p s := by
  unfold State.pixelPath
  dsimp only; repeat' split
  all_goals simp [h.produceRow, h.onCapture, h.longLine, h.shortLine]

/-! ## Captures -/

theorem Quiet.leaveCapturing (i : StreamId) (c : ContextId) (f : Causes → Causes) : p (s.leaveCapturing i c f) = p s := by
  unfold State.leaveCapturing
  rw [h.stream, h.onCapture]
  simp only [StreamState.core, Option.map_map]
  congr 1
  cases (s.onCapture i c _).streams[i].frame with
  | none => rfl
  | some r => simp only [Option.map_some, Function.comp]; split <;> rfl

theorem Quiet.dropLines (i : StreamId) (c : ContextId) : p (s.dropLines i c) = p s := h.stream _ _ _ rfl

theorem Quiet.abortCapture (i : StreamId) (c : ContextId) : p (s.abortCapture i c) = p s := by
  unfold State.abortCapture; split <;> simp [h.dropLines, h.releaseHeld, h.leaveCapturing]

theorem Quiet.writeFault (i : StreamId) (c : ContextId) : p (s.writeFault i c) = p s := by
  unfold State.writeFault; split <;> simp [h.dropLines, h.releaseHeld, h.leaveCapturing, h.onCapture]

theorem Quiet.unpairedRows (i : StreamId) (c : ContextId) (n : Nat) : p (s.unpairedRows i c n) = p s := by
  rw [State.unpairedRows, h.bump, h.onCounters]

theorem Quiet.closeHeld (i : StreamId) (c : ContextId) (x : Close) : p (s.closeHeld i c x) = p s := by
  cases x <;> simp [State.closeHeld, h.releaseHeld, h.flushCapture, h.onCapture]

theorem Quiet.closeCapture (i : StreamId) (c : ContextId) (x : Close) : p (s.closeCapture i c x) = p s := by
  unfold State.closeCapture; split
  · dsimp only; split <;> simp [h.closeHeld, h.unpairedRows, h.leaveCapturing]
  · rfl

theorem Quiet.abortList (i : StreamId) : p (s.abortList i) = p s := by
  unfold State.abortList
  rw [h.stream _ _ _ rfl, foldl_keeps p _ fun s q => h.record s i q _]

theorem Quiet.abortCaptures (i : StreamId) : p (s.abortCaptures i) = p s := by
  simp [State.abortCaptures, h.abortCapture]

theorem Quiet.accountLine (i : StreamId) (l : OutputLine) : p (s.accountLine i l) = p s := by
  unfold State.accountLine; dsimp only; split <;> simp [h.bump, h.onCapture]

theorem Quiet.countAborted (i : StreamId) (n : Nat) : p (s.countAborted i n) = p s := h.admin _ _

theorem Quiet.finishCapture (i : StreamId) (c : ContextId) : p (s.finishCapture i c) = p s := by
  unfold State.finishCapture; split
  · dsimp only
    rw [h.memberFinished]
    split
    · rw [h.countAborted, h.stream _ _ _ rfl, h.record]
    · rw [h.stream _ _ _ rfl, h.record]
  · rfl

theorem Quiet.finishCaptures : p s.finishCaptures = p s :=
  foldl_keeps p _ (fun s i => by rw [h.finishCapture, h.finishCapture]) _ _

theorem Quiet.burstWritten (i : StreamId) (c : ContextId) : p (s.burstWritten i c) = p s := h.onCapture _ _ _ _

theorem Quiet.joinList (i : StreamId) (q : Request) : p (s.joinList i q) = p s := by
  unfold State.joinList; split
  · exact h.adoptHead s i _
  · exact h.stream _ _ _ rfl

/-! ## The frame offer -/

theorem Quiet.bindHead (i : StreamId) : p (s.bindHead i) = p s := by
  unfold State.bindHead; dsimp only; split
  · next q rest f pr c _ hf _ _ =>
    exact h.stream _ _ _ (by simp only [StreamState.core, hf, Option.map_some])
  · rfl

theorem Quiet.judgeHead (i : StreamId) (q : Request) (f : Frame) (pr : Profile) : p (s.judgeHead i q f pr).2 = p s := by
  unfold State.judgeHead
  dsimp only; split
  · rfl
  · split
    · next g hg =>
      have k := h.claim s g i q f.number (q.canBind s.streams[i] f)
      split <;> next heq => rw [heq] at k; exact k
    · repeat' split
      all_goals rfl

theorem Quiet.offer (i : StreamId) (n : Nat) : p (Machine.offer i n s).1 = p s := by
  induction n generalizing s with
  | zero => rfl
  | succ n ih =>
    unfold Machine.offer
    split
    · next q _ f pr _ _ _ =>
      have k := h.judgeHead s i q f pr
      split <;> next heq => rw [heq] at k; simp_all [h.newHead, h.bindHead, h.finishHead]
    · rfl

/-! ## The Admin Unit -/

theorem Quiet.complete (x : Status) (d : Word) : p (s.complete x d) = p s := by
  unfold State.complete; split
  · rw [h.admin, h.entryReady]
  · rfl

theorem Quiet.abortEnds : p s.abortEnds = p s := by
  unfold State.abortEnds; repeat' split
  all_goals simp [h.complete]

theorem Quiet.drain : p s.drain = p s := by
  rw [State.drain, h.abortEnds, h.resolveGroups, h.finishCaptures]

theorem Quiet.onLoad (f : Load → Load) : p (s.onLoad f) = p s := h.admin _ _

theorem Quiet.burstFails : p s.burstFails = p s := by
  unfold State.burstFails; split
  · rfl
  · dsimp only; split <;> simp [h.complete, h.onLoad]

theorem Quiet.blockLanded : p s.blockLanded = p s := by
  unfold State.blockLanded; split
  · split <;> simp [h.complete, h.bump]
  · rfl

theorem Quiet.abortWaiting : p s.abortWaiting = p s := by
  unfold State.abortWaiting; split
  · rw [h.admin, h.entryReady]
  · rfl

theorem Quiet.abortEverything : p s.abortEverything = p s := by
  unfold State.abortEverything
  dsimp only
  rw [foldl_keeps p _ fun s g => h.breakGroup s g, foldl_keeps p _ fun s i => h.abortCaptures s i,
    foldl_keeps p _ fun s i => h.abortList s i]

end Quiet

section QuietOn

variable {γ : Type} {p : State → γ} {i : StreamId} (h : QuietOn i p) (s : State)
include h

/-! ## What happens to one stream: frames, packets, its lane, its profiles and tables -/

theorem QuietOn.closeFrame (x : Close) : p (s.closeFrame i x) = p s := by
  unfold State.closeFrame; split
  · rfl
  · dsimp only; repeat' split
    all_goals simp [h.closeCapture, h.bump, h.own]

theorem QuietOn.stray : p (s.stray i) = p s := h.bump _ _ _

theorem QuietOn.acceptFrame (n : Half) (id : BitVec 4) : p (s.acceptFrame i n id) = p s := by
  unfold State.acceptFrame
  dsimp only
  split <;> next heq =>
    have k := congrArg (fun r => p r.1) heq
    simp only [h.offer] at k
    simpa [h.bump, h.own, h.closeFrame] using k.symm

theorem QuietOn.foreignFrame : p (s.foreignFrame i) = p s := by
  rw [State.foreignFrame, h.bump, h.closeFrame]

theorem QuietOn.takeFrameStart (n : Half) (id : BitVec 4) : p (s.takeFrameStart i n id) = p s := by
  unfold State.takeFrameStart; repeat' split
  all_goals simp [h.acceptFrame, h.foreignFrame]

theorem QuietOn.acceptLine (f : Frame) (n : Nat) (e : Exposure) (px : List Pixel) (d : Bool) :
    p (s.acceptLine i f n e px d) = p s := by
  unfold State.acceptLine; dsimp only
  repeat' split
  all_goals simp [h.pixelPath, h.bump, h.own]

theorem QuietOn.takeLine (n : Nat) (e : Exposure) (px : List Pixel) (d : Bool) : p (s.takeLine i n e px d) = p s := by
  unfold State.takeLine; dsimp only
  repeat' split
  all_goals simp [h.acceptLine, h.stray]

theorem QuietOn.takeFrameEnd (n c : Half) : p (s.takeFrameEnd i n c) = p s := by
  unfold State.takeFrameEnd; dsimp only
  repeat' split
  all_goals simp [h.own, h.closeFrame, h.stray]

theorem QuietOn.laneStep (w : WordClass) : p (s.laneStep i w).1 = p s := by
  unfold State.laneStep; split; dsimp only; exact h.own _ _

theorem QuietOn.laneOff : p (s.laneOff i) = p s := by
  unfold State.laneOff; dsimp only; split <;> simp [h.own, h.closeFrame]

theorem QuietOn.laneOn : p (s.laneOn i) = p s := by
  unfold State.laneOn; split <;> simp [h.own]

theorem QuietOn.setLaneEnable (on : Bool) : p (s.setLaneEnable i on) = p s := by
  unfold State.setLaneEnable; dsimp only; repeat' split
  all_goals simp [h.laneOn, h.laneOff, h.own]

theorem QuietOn.stageDefects (t : List DefectEntry) : p (s.stageDefects i t) = p s := h.own _ _

end QuietOn

/-! ## The shell of a state -/

theorem State.shell_quietOn (i : StreamId) : QuietOn i State.shell where
  entry _ _ _ := rfl
  group _ _ _ := rfl
  pairing _ _ := rfl
  admin _ _ := rfl
  stream _ _ _ _ := rfl
  own _ _ := rfl

theorem State.shell_quiet : Quiet State.shell := (State.shell_quietOn 0).toQuiet

theorem State.shell_lanesOff (s : State) : s.lanesOff.shell = s.shell :=
  foldl_keeps State.shell _ (fun s i => (State.shell_quietOn i).laneOff s) _ _

theorem State.shell_lanesOn (s : State) : s.lanesOn.shell = s.shell :=
  foldl_keeps State.shell _ (fun s i => (State.shell_quietOn i).laneOn s) _ _

theorem State.shell_validateLoad (s : State) (l : Load) : (s.validateLoad l).shell = s.shell := by
  unfold State.validateLoad; split <;> simp [State.shell_quiet.complete, (State.shell_quietOn _).stageDefects]

theorem State.shell_burstLands (s : State) (j : Nat) (d : List Byte) : (s.burstLands j d).shell = s.shell := by
  unfold State.burstLands; split
  · rfl
  · dsimp only; repeat' split
    all_goals simp [State.shell_quiet.complete, State.shell_quiet.onLoad, State.shell_validateLoad]

end Sys2Proof.Machine
end

