-- ==== Sys2Proof/Laws/Conclude.lean ====
section
/-! SUPPORT. What admin commands and `conclude` leave alone, and what `conclude` ends in. -/

namespace Sys2Proof.Machine

/-- A projection that the blocks between the Register Window and the Memory Port do not move: streams, groups,
holding entries, the Admin Unit, request rings and the post queue. -/
structure QuietInside {γ : Type} (p : State → γ) : Prop where
  on : ∀ i, QuietOn i p
  ring : ∀ s r f, p (State.onRing s r f) = p s
  queue : ∀ (s : State) l, p { s with postQueue := l } = p s

section

variable {γ : Type} {p : State → γ} (h : QuietInside p) (s : State)
include h

theorem QuietInside.quiet : Quiet p := (h.on 0).toQuiet

/-! ## Admin commands -/

theorem QuietInside.validateLoad (l : Load) : p (s.validateLoad l) = p s := by
  unfold State.validateLoad; split <;> simp [h.quiet.complete, (h.on _).stageDefects]

theorem QuietInside.burstLands (j : Nat) (d : List Byte) : p (s.burstLands j d) = p s := by
  unfold State.burstLands; split
  · rfl
  · dsimp only; repeat' split
    all_goals simp [h.quiet.complete, h.quiet.onLoad, h.validateLoad]

theorem QuietInside.runCreateRing (i : StreamId) (b : Addr) (n : Nat) : p (s.runCreateRing i b n) = p s := by
  unfold State.runCreateRing; dsimp only; split <;> simp [h.quiet.complete, h.ring]

theorem QuietInside.runDeleteRing (i : StreamId) : p (s.runDeleteRing i) = p s := by
  unfold State.runDeleteRing; dsimp only; repeat' split
  all_goals simp [h.quiet.complete, h.quiet.breakGroupsOf, h.ring]

theorem QuietInside.runResumeStream (i : StreamId) (b : Bool) : p (s.runResumeStream i b) = p s := by
  unfold State.runResumeStream; dsimp only; repeat' split
  all_goals simp [h.quiet.complete, h.ring]

theorem QuietInside.runConfigureStream (i : StreamId) (b : Bool) (f : ProfileFields) : p (s.runConfigureStream i b f) = p s := by
  unfold State.runConfigureStream; repeat' split
  all_goals simp [h.quiet.complete, (h.on i).setLaneEnable, (h.on i).own]

theorem QuietInside.runLoadDefects (i : StreamId) (a : Addr) (n : Nat) : p (s.runLoadDefects i a n) = p s := by
  unfold State.runLoadDefects; repeat' split
  all_goals simp [h.quiet.complete, (h.on i).stageDefects, h.quiet.admin]

theorem QuietInside.runAbortStream (i : StreamId) : p (s.runAbortStream i) = p s := by
  unfold State.runAbortStream; dsimp only; split
  · exact h.quiet.complete _ _ _
  · rw [h.quiet.breakGroupsOf, h.quiet.abortCaptures, h.quiet.abortList, h.quiet.admin, h.ring]

theorem QuietInside.runOpenGroup (g : GroupId) (m : Byte) (n : Nat) : p (s.runOpenGroup g m n) = p s := by
  unfold State.runOpenGroup; repeat' split
  all_goals simp [h.quiet.complete, h.quiet.group]

theorem QuietInside.runCloseGroup (g : GroupId) : p (s.runCloseGroup g) = p s := by
  unfold State.runCloseGroup; split <;> simp [h.quiet.complete, h.quiet.breakGroup]

theorem QuietInside.runReadStats (i : StreamId) (a : Addr) (b : Bool) : p (s.runReadStats i a b) = p s := by
  unfold State.runReadStats; dsimp only; split
  · exact h.quiet.admin _ _
  · exact h.quiet.complete _ _ _

theorem QuietInside.startCommand (cmd : AdminCommand) : p (s.startCommand cmd) = p s := by
  unfold State.startCommand State.run
  split <;> simp [h.quiet.complete, h.quiet.admin, h.runCreateRing, h.runDeleteRing, h.runResumeStream,
    h.runConfigureStream, h.runLoadDefects, h.runAbortStream, h.runOpenGroup, h.runCloseGroup, h.runReadStats]

theorem QuietInside.startWaiting : p s.startWaiting = p s := by
  unfold State.startWaiting; repeat' split
  all_goals simp [h.startCommand, h.quiet.admin]

theorem QuietInside.handCommand (cmd : AdminCommand) : p (s.handCommand cmd) = p s := by
  unfold State.handCommand; split
  · exact h.startCommand s cmd
  · exact h.quiet.admin _ _

theorem QuietInside.landCommand (e : EntryId) (tag : Word) (op : Option AdminOp) : p (s.landCommand e tag op) = p s := by
  unfold State.landCommand; dsimp only; repeat' split
  all_goals simp [h.quiet.entryReady, h.handCommand, h.ring]

/-! ## `conclude` before its endings -/

theorem QuietInside.enqueue : p s.enqueue = p s := h.queue _ _

/-- All of `conclude` but the end of a stop or of a soft reset. -/
theorem QuietInside.beforeEndings : p s.drain.startWaiting.drain.enqueue = p s := by
  rw [h.enqueue, h.quiet.drain, h.startWaiting, h.quiet.drain]

/-! ## Lanes, slots and owners -/

theorem QuietInside.lanesOff : p s.lanesOff = p s := foldl_keeps p _ (fun s i => (h.on i).laneOff s) _ _

theorem QuietInside.lanesOn : p s.lanesOn = p s := foldl_keeps p _ (fun s i => (h.on i).laneOn s) _ _

theorem QuietInside.landSlot (i : StreamId) (e : EntryId) (r : List Byte) : p (s.landSlot i e r) = p s := by
  unfold State.landSlot; dsimp only; repeat' split
  all_goals simp [h.quiet.countAborted, h.quiet.entryReady, h.quiet.joinList, h.ring]

end

/-! ## The state but for the blocks inside -/

theorem State.outside_quiet : QuietInside State.outside where
  on _ := ⟨⟨fun _ _ _ => rfl, fun _ _ _ => rfl, fun _ _ => rfl, fun _ _ => rfl, fun _ _ _ _ => rfl⟩, fun _ _ => rfl⟩
  ring _ _ _ := rfl
  queue _ _ := rfl

/-- What `conclude` can do to the Register Window, the Time Base, coalescing and the Memory Port: nothing, or
the end of a stop (R197), or the end of a soft reset (R198). -/
theorem State.conclude_outside (s : State) :
    (s.conclude.outside = s.outside ∧ s.conclude.device = s.device)
    ∨ (s.device = .stopping ∧ s.portIdle = true ∧
        s.conclude = { s.toReset with setupAddress := s.setupAddress }.withIrq irqStopped s.irqEnable)
    ∨ (s.device = .resetting ∧ s.portIdle = true ∧ s.conclude = s.toReset) := by
  have k := State.outside_quiet.beforeEndings s
  generalize hm : s.drain.startWaiting.drain.enqueue = m at k
  have hd : m.device = s.device := (congrArg State.device k :)
  have hp : m.portIdle = s.portIdle := by
    have h1 : m.reads = s.reads := (congrArg State.reads k :)
    have h2 : m.writes = s.writes := (congrArg State.writes k :)
    simp [State.portIdle, h1, h2]
  have hq : m.pending = s.pending := (congrArg State.pending k :)
  have ha : m.setupAddress = s.setupAddress := (congrArg State.setupAddress k :)
  have he : m.irqEnable = s.irqEnable := (congrArg State.irqEnable k :)
  unfold State.conclude
  rw [hm]
  unfold State.endings
  split
  · next c =>
    simp only [State.stopEnds, Bool.and_eq_true, decide_eq_true_eq] at c
    exact .inr (.inl ⟨hd ▸ c.1.1, hp ▸ c.2, by simp [State.toStopped, State.toReset, ha, he, hq]⟩)
  · split
    · next c =>
      simp only [State.resetEnds, Bool.and_eq_true, decide_eq_true_eq] at c
      exact .inr (.inr ⟨hd ▸ c.1, hp ▸ c.2, by simp [State.toReset, hq]⟩)
    · exact .inl ⟨k, hd⟩

end Sys2Proof.Machine
end

