-- ==== Sys2Proof/Laws/Events.lean ====
section
/-! SUPPORT. What the searches of the Memory Port and the rings answer, what a response does, and what becomes of
the lanes in a fault: the lemmas a claim about one event cites instead of unfolding it. -/

namespace Sys2Proof.Machine

/-! ## Searches -/

/-- The lowest FREE entry is found (R178). -/
theorem lowestFree_eq_some {n : Nat} {v : Vector TrackerEntry n} {j : Fin n}
    (h : v[j] = .free ∧ ∀ k < j, v[k] ≠ .free) : lowestFree v = some j := by
  unfold lowestFree
  rw [List.find?_eq_some_iff_append]
  refine ⟨by simpa using h.1, ?_⟩
  obtain ⟨as, bs, e⟩ := List.append_of_mem (List.mem_finRange j)
  refine ⟨as, bs, e, fun a ha => ?_⟩
  have hp := List.pairwise_lt_finRange n
  rw [e, List.pairwise_append] at hp
  simpa using h.2 a (hp.2.2 a ha j (by simp))

/-- With no FREE entry none is found. -/
theorem lowestFree_eq_none {n : Nat} {v : Vector TrackerEntry n} (h : ∀ j : Fin n, v[j] ≠ .free) : lowestFree v = none := by
  unfold lowestFree; rw [List.find?_eq_none]; intro x _; simpa using h x

/-- The distance of a member of a rotation behind its first one. -/
theorem rotation_distance {n : Nat} (f q : Fin (n + 1)) :
    (q - f).val = if f ≤ q then q.val - f.val else q.val + (n + 1) - f.val := by
  rw [Fin.sub_def]
  have := q.isLt
  have := f.isLt
  split
  · next h =>
    have : f.val ≤ q.val := h
    simp only
    rw [show n + 1 - f.val + q.val = q.val - f.val + (n + 1) by omega, Nat.add_mod_right, Nat.mod_eq_of_lt (by omega)]
  · next h =>
    have : q.val < f.val := by simpa using h
    simp only
    rw [Nat.mod_eq_of_lt (by omega)]
    omega

/-- A rotation finds the first member that answers, counted from where it starts (R138, R182). -/
theorem rotation_find {n : Nat} {f g : Fin (n + 1)} {P : Fin (n + 1) → Bool} (hg : P g = true)
    (h : ∀ q, (q - f).val < (g - f).val → P q = false) : (Machine.rotation f).find? P = some g := by
  have part : ∀ A : Fin (n + 1) → Bool, A g = true → (∀ a, A a = true → a < g → P a = false) →
      List.find? P ((List.finRange (n + 1)).filter A) = some g := by
    intro A hA ha
    have hp := (List.pairwise_lt_finRange (n + 1)).filter A
    have hm : g ∈ (List.finRange (n + 1)).filter A := by simp [hA]
    have hb : ∀ x ∈ (List.finRange (n + 1)).filter A, A x = true := by simp
    generalize (List.finRange (n + 1)).filter A = l at hp hm hb
    obtain ⟨as, bs, rfl⟩ := List.append_of_mem hm
    rw [List.find?_eq_some_iff_append]
    refine ⟨hg, as, bs, rfl, fun a h => ?_⟩
    rw [List.pairwise_append] at hp
    rw [ha a (hb a (by simp [h])) (hp.2.2 a h g (by simp))]
    rfl
  unfold Machine.rotation
  rw [List.find?_append]
  by_cases c : f ≤ g
  · rw [part (fun x => decide (f ≤ x)) (by simpa using c) fun a ha lt => h a ?_]
    · rfl
    · have fa : f ≤ a := by simpa using ha
      rw [rotation_distance, rotation_distance, if_pos fa, if_pos c]
      have : f.val ≤ a.val := fa
      have : a.val < g.val := lt
      omega
  · have none : List.find? P ((List.finRange (n + 1)).filter fun x => decide (f ≤ x)) = none := by
      rw [List.find?_eq_none]
      intro a ha
      have fa : f ≤ a := by simpa using ha
      rw [h a]
      · simp
      · rw [rotation_distance, rotation_distance, if_pos fa, if_neg c]
        have := a.isLt
        have := f.isLt
        have : f.val ≤ a.val := fa
        omega
    rw [none, Option.none_or]
    refine part (fun x => decide (x < f)) (by simpa using c) fun a ha lt => h a ?_
    have fa : a < f := by simpa using ha
    rw [rotation_distance, rotation_distance, if_neg (by simpa using fa), if_neg c]
    have := f.isLt
    have : a.val < f.val := fa
    have : a.val < g.val := lt
    omega

/-- With no member that answers a rotation finds none. -/
theorem rotation_none {n : Nat} (f : Fin (n + 1)) {P : Fin (n + 1) → Bool} (h : ∀ q, P q = false) :
    (Machine.rotation f).find? P = none := by
  rw [List.find?_eq_none]; intro x _; simp [h x]

/-- The lowest FREE holding entry of a ring's partition is found (R143). -/
theorem State.freeEntry_eq_some {s : State} {r : RingId} {e : EntryId} (h1 : s.holding[e].state = .free)
    (h2 : ringOfEntry e = r) (h3 : ∀ f < e, ringOfEntry f = r → s.holding[f].state ≠ .free) : s.freeEntry r = some e := by
  unfold State.freeEntry entriesOf
  rw [List.find?_eq_some_iff_append]
  refine ⟨by simpa using h1, ?_⟩
  have hp := (List.pairwise_lt_finRange Config.holdingEntries).filter (ringOfEntry · = r)
  have hm : e ∈ (List.finRange Config.holdingEntries).filter (ringOfEntry · = r) := by simp [h2]
  have hb : ∀ x ∈ (List.finRange Config.holdingEntries).filter (ringOfEntry · = r), ringOfEntry x = r := by simp
  generalize (List.finRange Config.holdingEntries).filter (ringOfEntry · = r) = l at *
  obtain ⟨as, bs, rfl⟩ := List.append_of_mem hm
  refine ⟨as, bs, rfl, fun a ha => ?_⟩
  rw [List.pairwise_append] at hp
  simpa using h3 a (hp.2.2 a ha e (by simp)) (hb a (by simp [ha]))

/-- The Memory Port is idle just when every tracker entry is FREE (R191). -/
theorem State.portIdle_iff (s : State) : s.portIdle = true ↔ s.allFree := by
  simp only [State.portIdle, State.allFree, Bool.and_eq_true, List.all_eq_true, decide_eq_true_eq]
  constructor
  · intro ⟨a, b⟩
    exact ⟨fun j => a _ (by simp), fun j => b _ (by simp)⟩
  · intro ⟨a, b⟩
    constructor <;> intro x hx <;> rw [Vector.mem_toList_iff, Vector.mem_iff_getElem] at hx <;> obtain ⟨i, hi, rfl⟩ := hx
    · exact a ⟨i, hi⟩
    · exact b ⟨i, hi⟩

/-- The holding list is empty just when every entry is FREE (R197). -/
theorem State.listEmpty_iff (s : State) : s.listEmpty = true ↔ ∀ e : EntryId, s.holding[e].state = .free := by
  simp only [State.listEmpty, List.all_eq_true, decide_eq_true_eq]
  constructor
  · exact fun a e => a _ (by simp)
  · intro a x hx
    rw [Vector.mem_toList_iff, Vector.mem_iff_getElem] at hx
    obtain ⟨i, hi, rfl⟩ := hx
    exact a ⟨i, hi⟩

/-! ## Responses -/

/-- An entry that is for an owner is ISSUED with a transaction of that owner. -/
theorem TrackerEntry.isFor_cases {e : TrackerEntry} {o : Owner} (h : e.isFor o = true) :
    ∃ t, e = .issued t ∧ t.owner = some o := by
  cases e with
  | free => cases h
  | issued t => exact ⟨t, rfl, by simpa [TrackerEntry.isFor] using h⟩
  | quarantined t => cases h

theorem setIfInBounds_fin {α : Type} {n : Nat} (v : Vector α n) (j : Fin n) (x : α) : v.setIfInBounds j x = v.set j x := by
  apply Vector.toArray_inj.mp; simp [Array.setIfInBounds]

theorem State.readEntry_fin (s : State) (j : Fin Config.readEntries) : s.readEntry j = some s.reads[j] := by
  have := j.isLt
  simp [State.readEntry, this]

theorem State.writeEntry_fin (s : State) (j : Fin Config.writeEntries) : s.writeEntry j = some s.writes[j] := by
  have := j.isLt
  simp [State.writeEntry, this]

theorem State.setTracker_read_free (s : State) (j : Fin Config.readEntries) : s.setTracker .read j .free = s.readFreed j :=
  congrArg (fun v => ({ s with reads := v } : State)) (setIfInBounds_fin s.reads j .free)

theorem State.setTracker_write_free (s : State) (j : Fin Config.writeEntries) : s.setTracker .write j .free = s.writeFreed j :=
  congrArg (fun v => ({ s with writes := v } : State)) (setIfInBounds_fin s.writes j .free)

/-- A response to an issued read, outside RESETTING: its entry is FREE and its owner takes the answer (R184). -/
theorem State.respond_read {s : State} {j : Fin Config.readEntries} {o : Owner} (h : s.readingFor j o)
    (hd : s.device ≠ .resetting) : ∃ t, s.reads[j] = .issued t ∧ t.owner = some o ∧
      ∀ f, s.respond .read j f = (match f t (s.readFreed j) with | some u => u.conclude | none => s) := by
  obtain ⟨t, h1, h2⟩ := TrackerEntry.isFor_cases h
  refine ⟨t, h1, h2, fun f => ?_⟩
  have e : s.trackerEntry .read j = some (.issued t) := h1 ▸ s.readEntry_fin j
  unfold State.respond State.meeting
  rw [e]
  dsimp only
  rw [if_neg hd]
  exact State.setTracker_read_free s j ▸ rfl

/-- A response to an issued write, outside RESETTING: its entry is FREE and its owner takes the answer (R184). -/
theorem State.respond_write {s : State} {j : Fin Config.writeEntries} {o : Owner} (h : s.writingFor j o)
    (hd : s.device ≠ .resetting) : ∃ t, s.writes[j] = .issued t ∧ t.owner = some o ∧
      ∀ f, s.respond .write j f = (match f t (s.writeFreed j) with | some u => u.conclude | none => s) := by
  obtain ⟨t, h1, h2⟩ := TrackerEntry.isFor_cases h
  refine ⟨t, h1, h2, fun f => ?_⟩
  have e : s.trackerEntry .write j = some (.issued t) := h1 ▸ s.writeEntry_fin j
  unfold State.respond State.meeting
  rw [e]
  dsimp only
  rw [if_neg hd]
  exact State.setTracker_write_free s j ▸ rfl

/-! ## Beats -/

/-- The last beat of a read brings its answer (R183). -/
theorem State.takeBeat_last {s : State} {id : Nat} {b : Beat} {f : Transaction → ReadAnswer → State → Option State}
    (h : b.last = true) : s.takeBeat id b f = s.respond .read id fun t s => f t (readAnswer (t.beats ++ [b])) s := if_pos h

/-- Any other beat is collected (R183). -/
theorem State.takeBeat_more {s : State} {id : Nat} {b : Beat} {f : Transaction → ReadAnswer → State → Option State}
    (h : b.last = false) : s.takeBeat id b f = s.collectBeat id b := if_neg (by simp [h])

/-- A beat is collected behind those of its ISSUED entry (R183). -/
theorem State.collectBeat_eq {s : State} {j : Fin Config.readEntries} {t : Transaction} (b : Beat)
    (h : s.reads[j] = .issued t) :
    s.collectBeat j b = { s with reads := s.reads.set j (.issued { t with beats := t.beats ++ [b] }) } := by
  unfold State.collectBeat
  rw [State.readEntry_fin, h]
  exact congrArg (fun v => ({ s with reads := v } : State)) (setIfInBounds_fin s.reads j _)

theorem State.collected_eq {s : State} {j : Fin Config.readEntries} {t : Transaction} (h : s.reads[j] = .issued t) :
    s.collected j = t.beats := by
  unfold State.collected; rw [h]

/-- A read that lands is answered OK with its data (R183). -/
theorem State.landsWith_answer {s : State} {j : Fin Config.readEntries} {b : Beat} {r : List Byte} {t : Transaction}
    (h : s.landsWith j b r) (e : s.reads[j] = .issued t) : readAnswer (t.beats ++ [b]) = .data r := by
  obtain ⟨-, ok, rfl⟩ := h
  rw [State.collected_eq e] at ok ⊢
  unfold readAnswer beatsOkay
  rw [if_pos (List.all_eq_true.mpr fun x hx => by simpa using ok x hx)]

/-- A read that fails is answered with an error (R183). -/
theorem State.failsWith_answer {s : State} {j : Fin Config.readEntries} {b : Beat} {t : Transaction} (h : s.failsWith j b)
    (e : s.reads[j] = .issued t) : readAnswer (t.beats ++ [b]) = .error := by
  obtain ⟨-, x, hx, bad⟩ := h
  rw [State.collected_eq e] at hx
  unfold readAnswer beatsOkay
  rw [if_neg]
  intro c
  rw [List.all_eq_true] at c
  exact bad (by simpa using c x hx)

/-! ## Groups and flushes -/

/-- A group that does not resolve is left as it is (R126, R127). -/
theorem State.resolveGroup_same {s : State} {g : GroupId} (h : s.groups[g].resolves = false) : s.resolveGroup g = s := by
  unfold State.resolveGroup; dsimp only; rw [if_neg (by rw [h]; simp)]

/-- The flush of a close waits behind another capture's, or moves the capture's own lines (R106, R107). -/
theorem State.flushCapture_cases (s : State) (i : StreamId) (c : ContextId) :
    ((∃ d, d ≠ c ∧ s.flushing i d = true) ∧ s.flushCapture i c = s)
    ∨ ((∀ d, d ≠ c → s.flushing i d = false) ∧ s.flushCapture i c = flushLines i (s.pairing.filter (·.ownedBy i c)) s) := by
  by_cases h : ∃ d, d ≠ c ∧ s.flushing i d = true
  · refine .inl ⟨h, if_pos ?_⟩
    obtain ⟨d, ne, fl⟩ := h
    rw [List.any_eq_true]
    exact ⟨d, List.mem_finRange d, by simp [ne, fl]⟩
  · refine .inr ⟨fun d ne => by simpa using fun fl => h ⟨d, ne, fl⟩, if_neg ?_⟩
    rw [List.any_eq_true]
    rintro ⟨d, -, p⟩
    exact h ⟨d, by simpa using p⟩

/-! ## Lanes -/

/-- An update that gives a stream back as it is changes nothing. -/
theorem State.onStream_same {s : State} {i : StreamId} {f : StreamState → StreamState} (h : f s.streams[i] = s.streams[i]) :
    s.onStream i f = s := by
  unfold State.onStream
  rw [h]
  have : s.streams.set i s.streams[i] = s.streams := Vector.set_getElem_self ..
  rw [this]

/-- A lane in OFF stays as it is when the lanes go to OFF (R59). -/
theorem State.laneOff_same {s : State} {i : StreamId} (h : s.streams[i].lane = .off) : s.laneOff i = s := by
  unfold State.laneOff
  dsimp only
  have same : s.onStream i (fun x => { x with lane := .off }) = s :=
    State.onStream_same (by generalize s.streams[i] = x at h; rw [← h])
  rw [same, h, if_neg (by simp [Lane.off])]

theorem State.lanesOff_same {s : State} (h : s.allLanesOff) : s.lanesOff = s := by
  unfold State.lanesOff
  generalize List.finRange 4 = l
  induction l with
  | nil => rfl
  | cons a l ih => rw [List.foldl_cons, State.laneOff_same (h a)]; exact ih

/-- With every lane in OFF a fault changes the device state, the cause and IRQ_STATUS, and nothing else (R200). -/
theorem State.enterFaulted_eq {s : State} (h : s.allLanesOff) (c : FaultCause) (hd : s.device ≠ .faulted) :
    s.enterFaulted c = s.withFault c := by
  unfold State.enterFaulted
  rw [if_neg hd, State.lanesOff_same (by exact h)]
  rfl

/-- What streams do with requests and captures leaves every lane as it is. -/
theorem State.lane_quiet (k : StreamId) : Quiet fun s : State => s.streams[k].lane where
  entry _ _ _ := rfl
  group _ _ _ := rfl
  pairing _ _ := rfl
  admin _ _ := rfl
  stream s j f hc := by
    simp only [State.onStream, Fin.getElem_fin, Vector.getElem_set]
    split
    · next e =>
      have : j = k := Fin.ext e
      subst this
      exact (congrArg StreamState.lane hc :)
    · rfl

/-- A stream's update that keeps its lane keeps every lane. -/
theorem State.onStream_lane (s : State) (i k : StreamId) (f : StreamState → StreamState) (h : ∀ x, (f x).lane = x.lane) :
    (s.onStream i f).streams[k].lane = s.streams[k].lane := by
  simp only [State.onStream, Fin.getElem_fin, Vector.getElem_set]
  split
  · next e =>
    have : i = k := Fin.ext e
    subst this
    exact h _
  · rfl

/-- A frame that closes leaves every lane as it is. -/
theorem State.closeFrame_lane (s : State) (i k : StreamId) (x : Close) : (s.closeFrame i x).streams[k].lane = s.streams[k].lane := by
  unfold State.closeFrame
  split
  · rfl
  · have base := State.onStream_lane s i k (fun x => { x with frame := none, gapTimer := none }) fun _ => rfl
    have last : ∀ (v : State) (o : Option ContextId), v.streams[k].lane = s.streams[k].lane →
        (match o with | some c => v.closeCapture i c x | none => v).streams[k].lane = s.streams[k].lane := by
      intro v o hv
      cases o
      · exact hv
      · exact ((State.lane_quiet k).closeCapture v i _ x).trans hv
    refine last _ _ ?_
    split
    · exact base
    · exact ((State.lane_quiet k).bump _ _ _).trans base

/-- The lane of one stream goes to OFF, and one in OFF stays there (R59). -/
theorem State.laneOff_off (s : State) (i : StreamId) : (s.laneOff i).streams[i].lane = .off ∧
    ∀ k : StreamId, s.streams[k].lane = .off → (s.laneOff i).streams[k].lane = .off := by
  unfold State.laneOff
  dsimp only
  have b : (s.onStream i fun x => { x with lane := .off }).streams[i].lane = .off ∧
      ∀ k : StreamId, s.streams[k].lane = .off → (s.onStream i fun x => { x with lane := .off }).streams[k].lane = .off := by
    refine ⟨by simp [State.onStream], fun k hk => ?_⟩
    simp only [State.onStream, Fin.getElem_fin, Vector.getElem_set]
    split
    · rfl
    · exact hk
  generalize (s.onStream i fun x => { x with lane := .off }) = u at b
  split
  · have q : ∀ k : StreamId, ((u.closeFrame i .linkLost).onStream i fun x => { x with relink := true }).streams[k].lane
        = u.streams[k].lane := fun k =>
      (State.onStream_lane _ i k _ (by intro; rfl)).trans (State.closeFrame_lane u i k .linkLost)
    exact ⟨(q i).trans b.1, fun k hk => (q k).trans (b.2 k hk)⟩
  · exact b

/-- Every lane is in OFF once they have all gone there (R59). -/
theorem State.lanesOff_all (s : State) : s.lanesOff.allLanesOff := by
  have e : s.lanesOff = (((s.laneOff 0).laneOff 1).laneOff 2).laneOff 3 := by
    unfold State.lanesOff
    rw [show List.finRange 4 = [0, 1, 2, 3] from rfl]
    simp only [List.foldl]
  rw [e]
  intro k
  match k with
  | 0 => exact (State.laneOff_off _ 3).2 0 ((State.laneOff_off _ 2).2 0 ((State.laneOff_off _ 1).2 0 (State.laneOff_off _ 0).1))
  | 1 => exact (State.laneOff_off _ 3).2 1 ((State.laneOff_off _ 2).2 1 (State.laneOff_off _ 1).1)
  | 2 => exact (State.laneOff_off _ 3).2 2 (State.laneOff_off _ 2).1
  | 3 => exact (State.laneOff_off _ 3).1

/-- Outside RUNNING lanes that are in OFF stay there through `conclude`. -/
theorem State.conclude_lanes {s : State} (hd : s.device ≠ .running) (h : s.allLanesOff) : s.conclude.allLanesOff := by
  have d1 : s.drain.device = s.device := by
    have k := State.outside_quiet.quiet.drain s
    generalize s.drain = v at k ⊢
    exact (congrArg State.device k :)
  have sw : s.drain.startWaiting = s.drain := by
    unfold State.startWaiting
    split
    · rw [if_neg]; rw [d1]; exact hd
    · rfl
  have e : s.conclude = s.drain.drain.enqueue.endings := congrArg (fun u : State => u.drain.enqueue.endings) sw
  rw [e]
  have hl : ∀ k : StreamId, s.drain.drain.enqueue.streams[k].lane = .off := by
    intro k
    have a := (State.lane_quiet k).drain s
    generalize s.drain = v at a
    have b := (State.lane_quiet k).drain v
    generalize v.drain = w at b
    exact b.trans (a.trans (h k))
  generalize s.drain.drain.enqueue = m at hl
  unfold State.endings
  repeat' split
  · intro k
    simp only [State.toStopped, State.toReset, State.withIrq, State.reset, Fin.getElem_fin, Vector.getElem_replicate,
      StreamState.reset]
  · intro k
    simp [State.toReset, State.reset, StreamState.reset]
  · exact hl

end Sys2Proof.Machine
end

