-- ==== Sys2Proof/Laws/Closes.lean ====
section
/-! SUPPORT. What the close of a frame does, said once: the lemmas a claim about a FRAME_START, a FRAME_END, a retrain,
a lane loss or a line-gap timeout cites instead of unfolding it. -/

namespace Sys2Proof.Machine

/-- With a full buffer no held line moves (R106). -/
theorem flushLines_full {s : State} {i : StreamId} (h : s.hasRoom i = false) (l : List HeldLine) : flushLines i l s = s := by
  induction l with
  | nil => rfl
  | cons a l ih => unfold flushLines; rw [if_neg (by simp [h])]; exact ih

/-- The state in which the held lines `l` of a capture, all that it holds, have flushed as far as there is room. -/
def State.flushed (s : State) (i : StreamId) (c : ContextId) (k : Capture) (l : List HeldLine) : State :=
  let n := 8 - s.streams[i].buffer.length
  { s.withStream i { s.streams[i] with
      contexts := s.streams[i].contexts.set c (some { k with flushPending := decide (n < l.length) })
      buffer := s.streams[i].buffer ++ (l.take n).map (·.alone k.request c) } with
    pairing := (l.take n).foldl List.erase s.pairing }

theorem State.hasRoom_iff (s : State) (i : StreamId) : s.hasRoom i = true ↔ s.streams[i].buffer.length < 8 :=
  decide_eq_true_iff

/-- A stream given back as it is. -/
theorem State.withStream_same (s : State) (i : StreamId) : s.withStream i s.streams[i] = s := by
  unfold State.withStream
  have : s.streams.set i s.streams[i] = s.streams := Vector.set_getElem_self ..
  rw [this]

theorem State.withStream_get (s : State) (i : StreamId) (x : StreamState) : (s.withStream i x).streams[i] = x := by
  simp [State.withStream]

theorem State.withStream_twice (s : State) (i : StreamId) (x y : StreamState) :
    (s.withStream i x).withStream i y = s.withStream i y := by
  simp [State.withStream, Vector.set_set]

theorem State.onStream_eq (s : State) (i : StreamId) (f : StreamState → StreamState) :
    s.onStream i f = s.withStream i (f s.streams[i]) := rfl

/-- A held line of a capture that has recorded neither WRITE_FAULT nor ABORTED leaves for a buffer with room (R104). -/
theorem State.writeHeld_own {s : State} {i : StreamId} {c : ContextId} {k : Capture} {h : HeldLine}
    (hk : s.streams[i].contexts[c] = some k) (ho : h.ownedBy i c = true) (hw : k.causes.writeFault = false)
    (ha : k.causes.aborted = false) (hs : k.request.assembly ≠ .split) (hr : s.streams[i].buffer.length < 8) :
    s.writeHeld h = { s.withStream i { s.streams[i] with
      contexts := s.streams[i].contexts.set c (some
        (if (s.pairing.erase h).any (·.ownedBy i c) then k else { k with flushPending := false }))
      buffer := s.streams[i].buffer ++ [h.alone k.request c] } with pairing := s.pairing.erase h } := by
  simp only [HeldLine.ownedBy, Bool.and_eq_true, decide_eq_true_eq] at ho
  obtain ⟨rfl, rfl⟩ := ho
  have mark : ∀ p r, k.markExposure p r = k := by
    intro p r; unfold Capture.markExposure; split <;> simp_all
  have self : s.streams[h.stream].contexts.set h.context (some k) = s.streams[h.stream].contexts := by
    rw [← hk]; exact Vector.set_getElem_self ..
  unfold State.writeHeld State.capture?
  rw [hk]
  dsimp only
  have e : ({ s with pairing := s.pairing.erase h } : State).produceRow h.stream h.context (h.longRow k.request.top)
      = { s.withStream h.stream { s.streams[h.stream] with
          buffer := s.streams[h.stream].buffer ++ [h.alone k.request h.context] } with pairing := s.pairing.erase h } := by
    unfold State.produceRow State.capture?
    dsimp only
    rw [hk]
    dsimp only
    rw [if_neg (by simp [hw, ha]), if_pos (by rw [State.hasRoom_iff]; exact hr)]
    simp only [State.onCapture, State.onStream_eq, State.withStream_twice, State.withStream_get, hk, Option.map_some, mark]
    rw [self]
    rfl
  rw [e]
  unfold State.flushDone State.holdsLines
  dsimp only
  split
  · rw [self]
  · simp only [State.onCapture, State.onStream_eq]
    rw [show ∀ x : StreamState, ({ s.withStream h.stream x with pairing := s.pairing.erase h } : State).streams[h.stream] = x from
      fun x => State.withStream_get s h.stream x]
    dsimp only
    rw [hk]
    simp only [Option.map_some]
    exact congrArg (fun u : State => ({ u with pairing := s.pairing.erase h } : State)) (State.withStream_twice ..)

theorem filter_erase {p : HeldLine → Bool} {h : HeldLine} (hp : p h = true) (l : List HeldLine) :
    (l.erase h).filter p = (l.filter p).erase h := by
  induction l with
  | nil => rfl
  | cons a l ih =>
    by_cases e : a = h
    · subst e; simp [hp]
    · rw [List.erase_cons_tail (by simpa using e)]
      simp only [List.filter_cons]
      split
      · rw [List.erase_cons_tail (by simpa using e), ih]
      · exact ih

/-- All the held lines of a capture whose flush is pending leave as far as the buffer has room (R106). -/
theorem flushLines_own {i : StreamId} {c : ContextId} {k : Capture} (hw : k.causes.writeFault = false)
    (ha : k.causes.aborted = false) (hs : k.request.assembly ≠ .split) :
    ∀ (l : List HeldLine) (s : State), s.heldBy i c = l →
      s.streams[i].contexts[c] = some { k with flushPending := decide (l ≠ []) } →
      flushLines i l s = s.flushed i c k l := by
  intro l
  induction l with
  | nil =>
    intro s _ hk
    unfold flushLines State.flushed
    dsimp only
    have self : s.streams[i].contexts.set c (some { k with flushPending := decide (8 - s.streams[i].buffer.length < ([] : List HeldLine).length) })
        = s.streams[i].contexts := by
      rw [show (decide (8 - s.streams[i].buffer.length < ([] : List HeldLine).length)) = decide (([] : List HeldLine) ≠ []) by simp, ← hk]
      exact Vector.set_getElem_self ..
    rw [self]
    simp only [List.take_nil, List.map_nil, List.append_nil, List.foldl_nil]
    exact (State.withStream_same s i).symm
  | cons h l ih =>
    intro s hl hk
    have ho : h.ownedBy i c = true := by
      have : h ∈ s.heldBy i c := by rw [hl]; simp
      exact (List.mem_filter.mp this).2
    have hd : h.stream = i ∧ h.context = c := by simpa [HeldLine.ownedBy] using ho
    have wait : s.flushWaits h = true := by
      unfold State.flushWaits State.capture?; rw [hd.1, hd.2, hk]; simp
    unfold flushLines
    by_cases room : s.streams[i].buffer.length < 8
    · rw [if_pos (by rw [Bool.and_eq_true, Bool.and_eq_true, State.hasRoom_iff]; exact ⟨⟨decide_eq_true hd.1, wait⟩, room⟩)]
      rw [State.writeHeld_own hk ho hw ha hs room]
      have rest : (s.pairing.erase h).filter (·.ownedBy i c) = l := by
        rw [filter_erase ho]
        have : s.pairing.filter (·.ownedBy i c) = h :: l := hl
        rw [this, List.erase_cons_head]
      have any : (s.pairing.erase h).any (·.ownedBy i c) = decide (l ≠ []) := by
        rw [← rest, Bool.eq_iff_iff]
        simp [List.filter_eq_nil_iff]
      rw [any]
      generalize hs' : ({ s.withStream i { s.streams[i] with
        contexts := s.streams[i].contexts.set c (some
          (if decide (l ≠ []) = true then { k with flushPending := decide (h :: l ≠ []) } else { k with flushPending := false }))
        buffer := s.streams[i].buffer ++ [h.alone k.request c] } with pairing := s.pairing.erase h } : State) = s'
      have st : s'.streams[i] = { s.streams[i] with
        contexts := s.streams[i].contexts.set c (some { k with flushPending := decide (l ≠ []) })
        buffer := s.streams[i].buffer ++ [h.alone k.request c] } := by
        rw [← hs']
        rw [show ∀ x : StreamState, ({ s.withStream i x with pairing := s.pairing.erase h } : State).streams[i] = x from
          fun x => State.withStream_get s i x]
        cases l <;> simp
      have pr : s'.pairing = s.pairing.erase h := by rw [← hs']
      have e := ih s' (by unfold State.heldBy; rw [pr]; exact rest) (by rw [st]; simp)
      refine (e : _).trans ?_
      unfold State.flushed
      dsimp only
      rw [st, pr]
      obtain ⟨n, hn⟩ : ∃ n, 8 - s.streams[i].buffer.length = n + 1 := ⟨7 - s.streams[i].buffer.length, by omega⟩
      have len : 8 - (s.streams[i].buffer ++ [h.alone k.request c]).length = n := by
        rw [List.length_append, List.length_singleton]; omega
      dsimp only
      rw [len, hn]
      simp only [List.take_succ_cons, List.map_cons, List.foldl_cons, List.append_assoc, List.singleton_append, Vector.set_set,
        List.length_cons, Nat.add_lt_add_iff_right]
      rw [← hs']
      simp only [State.withStream, Vector.set_set]
    · rw [if_neg (by rw [Bool.and_eq_true, State.hasRoom_iff]; exact fun x => room x.2)]
      rw [flushLines_full (by rw [Bool.eq_false_iff, ne_eq, State.hasRoom_iff]; exact room)]
      unfold State.flushed
      have z : 8 - s.streams[i].buffer.length = 0 := by omega
      dsimp only
      rw [z]
      have self : s.streams[i].contexts.set c (some { k with flushPending := decide (0 < (h :: l).length) })
          = s.streams[i].contexts := by
        rw [show decide (0 < (h :: l).length) = decide (h :: l ≠ []) by simp, ← hk]
        exact Vector.set_getElem_self ..
      rw [self]
      simp only [List.take_zero, List.map_nil, List.append_nil, List.foldl_nil]
      exact (State.withStream_same s i).symm

/-- A frame in progress without a capture closes (R46). -/
theorem State.closeFrame_unbound {s : State} {i : StreamId} {f : Frame} (h : s.streams[i].frame = some f)
    (hb : f.bound = none) (x : Close) :
    s.closeFrame i x = s.withStream i (s.streams[i].unframed (decide (x = .normal))) := by
  unfold State.closeFrame
  rw [h]
  dsimp only
  rw [hb]
  dsimp only
  unfold StreamState.unframed
  cases x <;> simp only [reduceCtorEq, if_true, if_false, decide_true, decide_false, State.bump, State.onStream_eq,
    State.withStream_get, State.withStream_twice, Bool.false_eq_true]

/-- With no frame in progress nothing closes. -/
theorem State.closeFrame_none {s : State} {i : StreamId} (h : s.streams[i].frame = none) (x : Close) :
    s.closeFrame i x = s := by unfold State.closeFrame; rw [h]

/-- Counting rows unpaired. -/
theorem State.unpairedRows_eq {s : State} {i : StreamId} {c : ContextId} {k : Capture}
    (hk : s.streams[i].contexts[c] = some k) (n : Nat) :
    s.unpairedRows i c n = s.withStream i { s.streams[i] with
      contexts := s.streams[i].contexts.set c (some { k with
        counters := { k.counters with unpaired := satIncBy n k.counters.unpaired } })
      stats := { s.streams[i].stats with linesUnpaired := satIncBy n s.streams[i].stats.linesUnpaired } } := by
  unfold State.unpairedRows
  simp only [State.onCounters, State.onCapture, State.bump, State.onStream_eq, State.withStream_get, State.withStream_twice,
    hk, Option.map_some]

/-- The close up to the held lines: the capture of the frame is FLUSHING and its lone rows are counted (R46, R111). -/
theorem State.closeFrame_bound {s : State} {i : StreamId} {f : Frame} {c : ContextId} {k : Capture}
    (h : s.boundTo i f c k) (x : Close) : s.closeFrame i x =
      (s.frameClosed i c k (x.cause k.causes) (decide (x = .normal)) [] k.flushPending s.pairing).closeHeld i c x := by
  unfold State.closeFrame
  rw [h.frame]
  dsimp only
  rw [h.bound]
  dsimp only
  have e : (if x = .normal then s.onStream i fun x => { x with frame := none, gapTimer := none }
      else (s.onStream i fun x => { x with frame := none, gapTimer := none }).bump i fun n =>
        { n with framesTruncated := satInc n.framesTruncated }) = s.withStream i (s.streams[i].unframed (decide (x = .normal))) := by
    unfold StreamState.unframed
    cases x <;> simp only [reduceCtorEq, if_true, if_false, decide_true, decide_false, State.bump, State.onStream_eq,
    State.withStream_get, State.withStream_twice, Bool.false_eq_true]
  rw [e]
  generalize hy : s.streams[i].unframed (decide (x = .normal)) = y
  have hc : y.contexts[c] = some k := by rw [← hy]; exact h.capture
  have hf : y.frame = none := by rw [← hy]; rfl
  unfold State.closeCapture State.capture?
  rw [State.withStream_get, hc]
  dsimp only
  have lv : (s.withStream i y).leaveCapturing i c x.cause = s.withStream i { y with
      contexts := y.contexts.set c (some { k with phase := .flushing, causes := x.cause k.causes }) } := by
    unfold State.leaveCapturing
    simp only [State.onCapture, State.onStream_eq, State.withStream_get, State.withStream_twice, hc, Option.map_some, hf, Option.map_none]
  rw [lv]
  have last : (if k.request.assembly = .split then (s.withStream i { y with
      contexts := y.contexts.set c (some { k with phase := .flushing, causes := x.cause k.causes }) }).unpairedRows i c k.oneExposure
      else s.withStream i { y with
        contexts := y.contexts.set c (some { k with phase := .flushing, causes := x.cause k.causes }) })
      = s.frameClosed i c k (x.cause k.causes) (decide (x = .normal)) [] k.flushPending s.pairing := by
    unfold State.frameClosed Capture.loneRows
    dsimp only
    rw [hy]
    split
    · rw [State.unpairedRows_eq (k := { k with phase := .flushing, causes := x.cause k.causes }) (by rw [State.withStream_get]; simp)]
      simp only [State.withStream_get, State.withStream_twice, Vector.set_set, List.map_nil, List.append_nil]
      rfl
    · simp only [satIncBy, List.map_nil, List.append_nil]
      rfl
  exact congrArg (fun u : State => u.closeHeld i c x) last

theorem State.frameClosed_get (s : State) (i : StreamId) (c : ContextId) (k : Capture) (causes : Causes) (n : Bool)
    (m : List HeldLine) (fl : Bool) (kept : List HeldLine) :
    (s.frameClosed i c k causes n m fl kept).streams[i] = { s.streams[i].unframed n with
      contexts := s.streams[i].contexts.set c (some { k with
        phase := .flushing
        causes := causes
        flushPending := fl
        counters := { k.counters with unpaired := satIncBy k.loneRows k.counters.unpaired } })
      stats := { (s.streams[i].unframed n).stats with linesUnpaired := satIncBy k.loneRows s.streams[i].stats.linesUnpaired }
      buffer := s.streams[i].buffer ++ m.map (·.alone k.request c) } := by
  unfold State.frameClosed
  dsimp only
  have g : ∀ (x : StreamState) (p : List HeldLine), ({ s.withStream i x with pairing := p } : State).streams[i] = x :=
    fun x p => State.withStream_get s i x
  rw [g]
  unfold StreamState.unframed
  cases n <;> rfl

theorem State.onCapture_withStream {s : State} {i : StreamId} {c : ContextId} {x : StreamState} {k : Capture}
    (h : x.contexts[c] = some k) (f : Capture → Capture) :
    (s.withStream i x).onCapture i c f = s.withStream i { x with contexts := x.contexts.set c (some (f k)) } := by
  unfold State.onCapture
  rw [State.onStream_eq, State.withStream_get, State.withStream_twice, h]
  rfl

theorem State.onCapture_pairing (s : State) (i : StreamId) (c : ContextId) (f : Capture → Capture) (p : List HeldLine) :
    ({ s with pairing := p } : State).onCapture i c f = { s.onCapture i c f with pairing := p } := rfl

/-- The flush of a closed frame's capture is set or taken back. -/
theorem State.frameClosed_flush (s : State) (i : StreamId) (c : ContextId) (k : Capture) (causes : Causes) (n : Bool)
    (m : List HeldLine) (a b : Bool) (p : List HeldLine) :
    (s.frameClosed i c k causes n m a p).onCapture i c (fun k => { k with flushPending := b })
      = s.frameClosed i c k causes n m b p := by
  unfold State.frameClosed
  dsimp only
  rw [State.onCapture_pairing, State.onCapture_withStream (by rw [Fin.getElem_fin, Vector.getElem_set_self])]
  simp only [Vector.set_set]

/-- A LINK_LOST close releases the held lines of its capture (R108). -/
theorem State.closeFrame_lost {s : State} {i : StreamId} {f : Frame} {c : ContextId} {k : Capture}
    (h : s.boundTo i f c k) : s.closeFrame i .linkLost = s.frameLost i c k := by
  rw [State.closeFrame_bound h]
  unfold State.closeHeld State.releaseHeld
  exact State.frameClosed_flush s i c k _ _ [] k.flushPending false (s.pairing.filter fun h => !h.ownedBy i c)

theorem State.frameClosed_pairing (s : State) (i : StreamId) (c : ContextId) (k : Capture) (causes : Causes) (n : Bool)
    (m : List HeldLine) (a : Bool) (p : List HeldLine) : (s.frameClosed i c k causes n m a p).pairing = p := rfl

/-- Any other close sets the flush pending if the capture holds a line, and flushes (R106). -/
theorem State.closeFrame_flush {s : State} {i : StreamId} {f : Frame} {c : ContextId} {k : Capture}
    (h : s.boundTo i f c k) (x : Close) (hx : x ≠ .linkLost) : s.closeFrame i x =
      (s.frameClosed i c k (x.cause k.causes) (decide (x = .normal)) [] (decide (s.heldBy i c ≠ [])) s.pairing).flushCapture i c := by
  rw [State.closeFrame_bound h]
  have e : ∀ a, (s.frameClosed i c k (x.cause k.causes) (decide (x = .normal)) [] a s.pairing).holdsLines i c
      = decide (s.heldBy i c ≠ []) := by
    intro a
    unfold State.holdsLines
    rw [State.frameClosed_pairing, State.heldBy, Bool.eq_iff_iff]
    simp [List.filter_eq_nil_iff]
  have e2 : (s.frameClosed i c k (x.cause k.causes) (decide (x = .normal)) [] k.flushPending s.pairing).onCapture i c
      (fun l => { l with flushPending := (s.frameClosed i c k (x.cause k.causes) (decide (x = .normal)) [] k.flushPending s.pairing).holdsLines i c })
      = s.frameClosed i c k (x.cause k.causes) (decide (x = .normal)) [] (decide (s.heldBy i c ≠ [])) s.pairing := by
    rw [e]; exact State.frameClosed_flush ..
  cases x
  · exact congrArg (fun u : State => u.flushCapture i c) e2
  · exact congrArg (fun u : State => u.flushCapture i c) e2
  · exact absurd rfl hx

/-- The captures of the other context are not touched by a close. -/
theorem State.frameClosed_other (s : State) (i : StreamId) {c d : ContextId} (hd : d ≠ c) (k : Capture) (causes : Causes)
    (n : Bool) (m : List HeldLine) (a : Bool) (p : List HeldLine) :
    (s.frameClosed i c k causes n m a p).streams[i].contexts[d] = s.streams[i].contexts[d] := by
  rw [State.frameClosed_get]
  dsimp only
  have ne : c.val ≠ d.val := fun e => hd (Fin.ext e.symm)
  simp only [Fin.getElem_fin]
  rw [Vector.getElem_set_ne _ _ ne]

/-- Behind another capture whose flush is pending the lines of a close wait (R107, log entry 15). -/
theorem State.closeFrame_waits {s : State} {i : StreamId} {f : Frame} {c d : ContextId} {k m : Capture}
    (h : s.boundTo i f c k) (x : Close) (hx : x ≠ .linkLost) (hd : d ≠ c) (hm : s.streams[i].contexts[d] = some m)
    (hf : m.flushPending = true) : s.closeFrame i x =
      s.frameClosed i c k (x.cause k.causes) (decide (x = .normal)) [] (decide (s.heldBy i c ≠ [])) s.pairing := by
  rw [State.closeFrame_flush h x hx]
  generalize hu : s.frameClosed i c k (x.cause k.causes) (decide (x = .normal)) [] (decide (s.heldBy i c ≠ [])) s.pairing = u
  have g : u.streams[i].contexts[d] = some m := by rw [← hu, State.frameClosed_other s i hd]; exact hm
  rcases State.flushCapture_cases u i c with ⟨-, e⟩ | ⟨no, -⟩
  · exact e
  · have := no d hd
    unfold State.flushing State.capture? at this
    rw [g] at this
    simp [hf] at this

/-- With nothing in its way a capture flushes as its frame closes (R106). -/
theorem State.closeFrame_flushed {s : State} {i : StreamId} {f : Frame} {c : ContextId} {k : Capture}
    (h : s.boundTo i f c k) (a : s.flushesAtOnce i c k) (normal : Bool) :
    s.closeFrame i (if normal then .normal else .truncated) = s.frameFlushed i c k normal := by
  generalize hx : (if normal then Close.normal else .truncated) = x
  have hl : x ≠ .linkLost := by rw [← hx]; cases normal <;> simp
  have hn : decide (x = .normal) = normal := by rw [← hx]; cases normal <;> simp
  have hc : x.cause k.causes = if normal then k.causes else { k.causes with truncated := true } := by
    rw [← hx]; cases normal <;> rfl
  rw [State.closeFrame_flush h x hl, hn]
  have cw : (x.cause k.causes).writeFault = false := by rw [hc]; cases normal <;> exact a.written
  have ca : (x.cause k.causes).aborted = false := by rw [hc]; cases normal <;> exact a.kept
  generalize hu : s.frameClosed i c k (x.cause k.causes) normal [] (decide (s.heldBy i c ≠ [])) s.pairing = u
  have gc : u.streams[i].contexts[c] = some { k with
      phase := .flushing
      causes := x.cause k.causes
      flushPending := decide (s.heldBy i c ≠ [])
      counters := { k.counters with unpaired := satIncBy k.loneRows k.counters.unpaired } } := by
    rw [← hu, State.frameClosed_get]; dsimp only; rw [Fin.getElem_fin, Vector.getElem_set_self]
  have gp : u.pairing = s.pairing := by rw [← hu]; rfl
  have gb : u.streams[i].buffer = s.streams[i].buffer := by
    rw [← hu, State.frameClosed_get]; dsimp only; rw [List.map_nil, List.append_nil]
  have own : u.heldBy i c = s.heldBy i c := by unfold State.heldBy; rw [gp]
  rcases State.flushCapture_cases u i c with ⟨⟨d, hd, fl⟩, -⟩ | ⟨-, e⟩
  · have g : u.streams[i].contexts[d] = s.streams[i].contexts[d] := by rw [← hu]; exact State.frameClosed_other s i hd ..
    unfold State.flushing State.capture? at fl
    rw [g] at fl
    cases hm : s.streams[i].contexts[d] with
    | none => rw [hm] at fl; simp at fl
    | some m => rw [hm] at fl; have := a.alone d m hd hm; simp [this] at fl
  rw [e]
  have e2 : flushLines i (u.pairing.filter (·.ownedBy i c)) u = u.flushed i c { k with
      phase := .flushing, causes := x.cause k.causes
      counters := { k.counters with unpaired := satIncBy k.loneRows k.counters.unpaired } } (s.heldBy i c) := by
    have l : u.pairing.filter (·.ownedBy i c) = s.heldBy i c := own
    rw [l]
    by_cases sp : k.request.assembly = .split
    · have z := a.split sp
      rw [z] at gc ⊢
      unfold flushLines
      unfold State.flushed
      dsimp only
      have self : ∀ n, u.streams[i].contexts.set c (some { k with
          phase := .flushing, causes := x.cause k.causes
          counters := { k.counters with unpaired := satIncBy k.loneRows k.counters.unpaired }
          flushPending := decide (n < ([] : List HeldLine).length) }) = u.streams[i].contexts := by
        intro n
        rw [show decide (n < ([] : List HeldLine).length) = decide (([] : List HeldLine) ≠ []) by simp, ← gc]
        exact Vector.set_getElem_self ..
      rw [self]
      simp only [List.take_nil, List.map_nil, List.append_nil, List.foldl_nil]
      exact (State.withStream_same u i).symm
    · exact flushLines_own (k := { k with
        phase := .flushing, causes := x.cause k.causes
        counters := { k.counters with unpaired := satIncBy k.loneRows k.counters.unpaired } }) cw ca sp _ u own gc
  rw [e2]
  unfold State.flushed State.frameFlushed
  dsimp only
  rw [gb, gp, hc]
  generalize (s.heldBy i c) = l at *
  generalize 8 - s.streams[i].buffer.length = n
  rw [← hu, State.frameClosed_get]
  unfold State.frameClosed
  dsimp only
  simp only [State.withStream, Vector.set_set, List.map_nil, List.append_nil]
  cases normal <;> rfl

end Sys2Proof.Machine
end

