-- ==== Sys2Proof/Laws/Aborts.lean ====
section
/-! SUPPORT. What the abort of a stream does, said once (R52, R109, R91): the lemmas a claim about ABORT_STREAM or the
entry to STOPPING cites instead of unfolding it. -/

namespace Sys2Proof.Machine

/-- A capture that records ABORTED (R52). -/
def Capture.abandoned (k : Capture) : Capture :=
  { k with phase := .flushing, flushPending := false, causes := { k.causes with aborted := true } }

/-- A held context is aborted: its capture records ABORTED, no frame stays bound to it, its held lines are released and
its buffered lines dropped. -/
theorem State.abortCapture_some {s : State} {i : StreamId} {c : ContextId} {k : Capture}
    (h : s.streams[i].contexts[c] = some k) :
    s.abortCapture i c = { s.withStream i { s.streams[i] with
        contexts := s.streams[i].contexts.set c (some k.abandoned)
        frame := s.streams[i].frame.map fun r => if r.bound = some c then { r with bound := none } else r
        buffer := s.streams[i].buffer.filter (·.context ≠ c) } with
      pairing := s.pairing.filter fun h => !h.ownedBy i c } := by
  unfold State.abortCapture State.capture?
  rw [h]
  have h' : s.streams[i.val].contexts[c.val] = some k := h
  simp [State.leaveCapturing, State.releaseHeld, State.dropLines, State.onCapture, State.onStream, State.withStream, h',
    Capture.abandoned]

/-- A free context has nothing to abort. -/
theorem State.abortCapture_none {s : State} {i : StreamId} {c : ContextId} (h : s.streams[i].contexts[c] = none) :
    s.abortCapture i c = s := by
  unfold State.abortCapture State.capture?; rw [h]

/-- The second abort of a stream, met on the state the first has left. -/
theorem State.abortCapture_again {s : State} {i : StreamId} {c : ContextId} {k : Capture} {x : StreamState}
    {p : List HeldLine} (h : x.contexts[c] = some k) :
    ({ s.withStream i x with pairing := p } : State).abortCapture i c = { s.withStream i { x with
        contexts := x.contexts.set c (some k.abandoned)
        frame := x.frame.map fun r => if r.bound = some c then { r with bound := none } else r
        buffer := x.buffer.filter (·.context ≠ c) } with
      pairing := p.filter fun h => !h.ownedBy i c } := by
  have e : ({ s.withStream i x with pairing := p } : State).streams[i] = x := by simp [State.withStream]
  rw [State.abortCapture_some (k := k) (by rw [e]; exact h), e]
  simp [State.withStream]

/-- Both captures of a stream aborted, as one update. -/
theorem State.abortCaptures_eq (s : State) (i : StreamId) : s.abortCaptures i = { s.withStream i { s.streams[i] with
      contexts := s.streams[i].contexts.map fun k => k.map Capture.abandoned
      frame := s.streams[i].frame.map fun f => { f with bound := f.bound.filter fun c => s.streams[i].contexts[c].isNone }
      buffer := s.streams[i].buffer.filter fun l => s.streams[i].contexts[l.context].isNone } with
    pairing := s.pairing.filter fun h => !(h.stream = i && s.streams[i].contexts[h.context].isSome) } := by
  have two : ∀ c : ContextId, c = 0 ∨ c = 1 := by decide
  have pair : ∀ (v w : Vector (Option Capture) 2), v[0] = w[0] → v[1] = w[1] → v = w := by
    intro v w a b; ext1 k hk; match k, hk with
    | 0, _ => exact a
    | 1, _ => exact b
  have held : ∀ (p q : HeldLine → Bool), (∀ a, p a = q a) → s.pairing.filter p = s.pairing.filter q :=
    fun p q h => by rw [funext h]
  have same : ∀ (v : Vector (Option Capture) 2) (f : Option Frame) (b : List OutputLine) (p : List HeldLine),
      v = s.streams[i].contexts.map (fun k => k.map Capture.abandoned) →
      f = s.streams[i].frame.map (fun f => { f with bound := f.bound.filter fun c => s.streams[i].contexts[c].isNone }) →
      b = s.streams[i].buffer.filter (fun l => s.streams[i].contexts[l.context].isNone) →
      p = s.pairing.filter (fun h => !(h.stream = i && s.streams[i].contexts[h.context].isSome)) →
      ({ s.withStream i { s.streams[i] with contexts := v, frame := f, buffer := b } with pairing := p } : State) =
      { s.withStream i { s.streams[i] with
        contexts := s.streams[i].contexts.map fun k => k.map Capture.abandoned
        frame := s.streams[i].frame.map fun f => { f with bound := f.bound.filter fun c => s.streams[i].contexts[c].isNone }
        buffer := s.streams[i].buffer.filter fun l => s.streams[i].contexts[l.context].isNone } with
      pairing := s.pairing.filter fun h => !(h.stream = i && s.streams[i].contexts[h.context].isSome) } := by
    rintro v f b p rfl rfl rfl rfl; rfl
  have frames : ∀ g : Frame → Frame, (∀ f, g f = { f with bound := f.bound.filter fun c => s.streams[i].contexts[c].isNone }) →
      s.streams[i].frame.map g
        = s.streams[i].frame.map (fun f => { f with bound := f.bound.filter fun c => s.streams[i].contexts[c].isNone }) :=
    fun g h => by rw [funext h]
  unfold State.abortCaptures
  rcases h0 : s.streams[i].contexts[(0 : ContextId)] with _ | k
  · have g0 : s.streams[i.val].contexts[0] = none := h0
    rw [State.abortCapture_none h0]
    rcases h1 : s.streams[i].contexts[(1 : ContextId)] with _ | m
    · have g1 : s.streams[i.val].contexts[1] = none := h1
      rw [State.abortCapture_none h1]
      refine Eq.trans ?_ (same s.streams[i].contexts s.streams[i].frame s.streams[i].buffer s.pairing ?_ ?_ ?_ ?_)
      · exact (congrArg (fun t : State => { t with pairing := s.pairing }) (State.withStream_same s i)).symm
      · exact pair _ _ (by simp [g0]) (by simp [g1])
      · have := frames id fun f => by
          obtain ⟨_, _, _, b, _, _, _⟩ := f
          rcases b with _ | c
          · rfl
          · rcases two c with rfl | rfl <;> simp [Option.filter, g0, g1]
        simpa using this
      · refine (List.filter_eq_self.mpr fun l _ => ?_).symm
        rcases two l.context with e | e <;> simp [e, g0, g1]
      · refine (List.filter_eq_self.mpr fun l _ => ?_).symm
        rcases two l.context with e | e <;> simp [e, g0, g1]
    · have g1 : s.streams[i.val].contexts[1] = some m := h1
      rw [State.abortCapture_some h1]
      refine same _ _ _ _ ?_ ?_ ?_ ?_
      · exact pair _ _ (by simp [g0]) (by simp [g1])
      · refine frames _ fun f => ?_
        obtain ⟨_, _, _, b, _, _, _⟩ := f
        rcases b with _ | c
        · simp
        · rcases two c with rfl | rfl <;> simp [Option.filter, g0, g1]
      · refine List.filter_congr fun l _ => ?_
        rcases two l.context with e | e <;> simp [e, g0, g1]
      · refine held _ _ fun h => ?_
        rcases two h.context with e | e <;> simp [HeldLine.ownedBy, e, g0, g1]
  · have g0 : s.streams[i.val].contexts[0] = some k := h0
    rw [State.abortCapture_some h0]
    rcases h1 : s.streams[i].contexts[(1 : ContextId)] with _ | m
    · have g1 : s.streams[i.val].contexts[1] = none := h1
      rw [State.abortCapture_none (by simp [State.withStream, g1])]
      refine same _ _ _ _ ?_ ?_ ?_ ?_
      · exact pair _ _ (by simp [g0]) (by simp [g1])
      · refine frames _ fun f => ?_
        obtain ⟨_, _, _, b, _, _, _⟩ := f
        rcases b with _ | c
        · simp
        · rcases two c with rfl | rfl <;> simp [Option.filter, g0, g1]
      · refine List.filter_congr fun l _ => ?_
        rcases two l.context with e | e <;> simp [e, g0, g1]
      · refine held _ _ fun h => ?_
        rcases two h.context with e | e <;> simp [HeldLine.ownedBy, e, g0, g1]
    · have g1 : s.streams[i.val].contexts[1] = some m := h1
      rw [State.abortCapture_again (k := m) (by simp [g1])]
      refine same _ _ _ _ ?_ ?_ ?_ ?_
      · exact pair _ _ (by simp [g0]) (by simp [g1])
      · rw [Option.map_map]
        refine frames _ fun f => ?_
        obtain ⟨_, _, _, b, _, _, _⟩ := f
        rcases b with _ | c
        · simp
        · rcases two c with rfl | rfl <;> simp [Option.filter, g0, g1]
      · rw [List.filter_filter]
        refine List.filter_congr fun l _ => ?_
        rcases two l.context with e | e <;> simp [e, g0, g1]
      · rw [List.filter_filter]
        refine held _ _ fun h => ?_
        rcases two h.context with e | e <;> simp [HeldLine.ownedBy, e, g0, g1]

/-- The outcome of a request that bound no frame, as `State.withOutcome` has it (R121, R125, R144). -/
theorem State.record_unbound (s : State) (i : StreamId) (q : Request) (status : Status) :
    s.record i q (q.unboundReport status) = s.withOutcome i q status := by
  unfold State.record State.memberOf State.withOutcome
  rcases h : q.group with _ | g
  · simp [State.entryReady, State.withReady, State.onEntry, Request.unboundReport]
  · rcases hr : s.groups[g].slots[i].request with _ | r
    · have hr' : s.groups[g.val].slots[i.val].request = none := hr
      simp [MemberSlot.holds, hr', State.entryReady, State.withReady, State.onEntry, Request.unboundReport]
    · have hr' : s.groups[g.val].slots[i.val].request = some r := hr
      by_cases hp : (s.groups[g].slots[i].progress = .registered ∨ s.groups[g].slots[i].progress = .bound)
          ∧ r.entry = q.entry
      · have hp' := hp
        simp only [Fin.getElem_fin] at hp'
        simp [MemberSlot.holds, hr', hp', State.entryParked, State.onEntry, State.onGroup, Group.setSlot, MemberSlot.done,
          Request.unboundReport, Report.unbound]
      · have hp' := hp
        simp only [Fin.getElem_fin] at hp'
        simp [MemberSlot.holds, hr', hp', State.entryReady, State.withReady, State.onEntry, Request.unboundReport]

/-- The outcomes of a list of requests change holding entries and groups alone. -/
theorem State.outcomes_keep {A : Type} (p : State → A) (hp : ∀ (s : State) i q st, p (s.withOutcome i q st) = p s)
    (i : StreamId) (st : Status) : ∀ (l : List Request) (s : State),
      p (l.foldl (fun u q => u.withOutcome i q st) s) = p s
  | [], _ => rfl
  | q :: l, s => by rw [List.foldl_cons, State.outcomes_keep p hp i st l, hp]

/-- A stream is aborted as `State.streamAborted` has it. -/
theorem State.abortStream_eq (s : State) (i : StreamId) : (s.abortList i).abortCaptures i = s.streamAborted i := by
  have e : s.abortList i = (s.streams[i].prefetch.foldl (fun u q => u.withOutcome i q .aborted) s).onStream i fun x =>
      { x with prefetch := [], deadline := none } := by
    unfold State.abortList; simp only [State.record_unbound]
  have keep : ∀ (s : State) (i : StreamId) q st, (s.withOutcome i q st).streams = s.streams
      ∧ (s.withOutcome i q st).pairing = s.pairing := by
    intro s i q st; unfold State.withOutcome
    split
    · dsimp only; split <;> exact ⟨rfl, rfl⟩
    · exact ⟨rfl, rfl⟩
  unfold State.streamAborted
  dsimp only
  have hs := State.outcomes_keep State.streams (fun s i q st => (keep s i q st).1) i .aborted s.streams[i].prefetch s
  have hp := State.outcomes_keep State.pairing (fun s i q st => (keep s i q st).2) i .aborted s.streams[i].prefetch s
  rw [State.abortCaptures_eq, e]
  generalize s.streams[i].prefetch.foldl (fun u q => u.withOutcome i q .aborted) s = u at hs hp ⊢
  simp only [State.onStream, State.withStream, hs, hp]
  simp
  rfl

end Sys2Proof.Machine
end

