-- ==== Sys2Proof/Laws/Invariant.lean ====
section
/-! SUPPORT. What a step can do, said once: a property that is kept by each of the operations below is kept by
every step. -/

namespace Sys2Proof.Machine

/-- The state with holding entries, held lines, groups, the Admin Unit, the two queues and what streams do with
their requests and captures blanked. -/
def State.still (s : State) : State :=
  { s with
    holding := State.reset.holding
    admin := .idle
    streams := s.streams.map StreamState.core
    pairing := []
    groups := State.reset.groups
    postQueue := []
    pending := [] }

theorem State.still_quiet : Quiet State.still where
  entry _ _ _ := rfl
  group _ _ _ := rfl
  pairing _ _ := rfl
  admin _ _ := rfl
  stream s i f h := by
    have : (s.streams.set i (f s.streams[i])).map StreamState.core = s.streams.map StreamState.core := by
      ext k hk
      simp only [Vector.getElem_map, Vector.getElem_set]
      split
      · next e => subst e; exact h
      · rfl
    simp only [State.still, State.onStream]; rw [this]

/-- Lanes going off or on leave the device state. -/
theorem State.lanesOn_device (s : State) : s.lanesOn.device = s.device := by
  have k := State.outside_quiet.lanesOn s
  generalize s.lanesOn = m at k ⊢
  exact (congrArg State.device k :)

theorem State.startRunning_device (s : State) (v : Setup) : (s.startRunning v).device = .running :=
  State.lanesOn_device _

/-- The conditions of a grant. -/
theorem State.granted_some {s : State} {q : RequesterId} (e : s.granted = some q) :
    (s.device = .running ∨ s.device = .stopping) ∧ s.requesterReady q = true := by
  unfold State.granted at e
  split at e
  · next c => simp only [Bool.and_eq_true, Bool.or_eq_true, decide_eq_true_eq] at c; exact ⟨c.1, List.find?_some e⟩
  · cases e

/-- A property of states that each operation of the machine keeps. -/
structure Kept (P : State → Prop) : Prop where
  -- Whatever happens inside
  still : ∀ s m : State, m.still = s.still → P s → P m
  -- The Register Window and the device
  irq : ∀ s a b, P s → P (State.withIrq s a b)
  enable : ∀ (s : State) b d, P s → P { s with enable := b, enableDropped := d }
  address : ∀ (s : State) a, P s → P { s with setupAddress := a }
  tick : ∀ (s : State) n, P s → P { s with timeBase := n }
  reset : ∀ s, P (State.toReset s)
  stopped : ∀ s, P (State.toStopped s)
  faulted : ∀ (s : State) d id t c, c ≠ .none → s.trackerEntry d id = some (.issued t) → s.device ≠ .resetting → P s →
    P ((s.setTracker d id .free).enterFaulted c)
  fetchFaulted : ∀ (s : State) id t r c, c ≠ .none → s.readEntry id = some (.issued t) → s.device ≠ .resetting → P s →
    P (((s.setTracker .read id .free).onRing r fun x => { x with inFlight := false }).enterFaulted c)
  stopping : ∀ s : State, s.device = .running → P s → P { s with device := .stopping }.lanesOff
  softReset : ∀ s : State, s.device ≠ .resetting → P s → P s.beginReset
  start : ∀ s : State, s.device = .off → P s → P s.beginStart
  setup : ∀ (s : State) id t v, s.readEntry id = some (.issued t) → t.owner = some .deviceStart →
    s.device ≠ .resetting → P s → P ((s.setTracker .read id .free).startRunning v)
  -- The Memory Port
  read : ∀ (s : State) k o a n ms, s.device = .running ∨ s.device = .stopping → o ≠ .deviceStart → P s →
    P (s.issueRead k o a n ms)
  write : ∀ (s : State) k o a d, s.device = .running ∨ s.device = .stopping → P s → P (s.issueWrite k o a d)
  turn : ∀ (s : State) q, P s → P { s with writeRotation := q }
  collect : ∀ (s : State) id t l, s.readEntry id = some (.issued t) → P s →
    P (s.setTracker .read id (.issued { t with beats := l }))
  free : ∀ (s : State) d id t, s.trackerEntry d id = some (.issued t) → P s → P (s.setTracker d id .free)
  late : ∀ (s : State) d id t, s.trackerEntry d id = some (.quarantined t) → P s → P (s.lateFreed d id)
  timeout : ∀ (s : State) d id t, s.trackerEntry d id = some (.issued t) → s.device ≠ .resetting → P s →
    P (s.timeOut d id t)
  -- Rings
  land : ∀ s r, P s → P (State.onRing s r fun x => { x with inFlight := false })
  halt : ∀ (s : State) r, s.rings[r].state ≠ .absent → P s → P (State.onRing s r fun x => { x with state := .halted })
  active : ∀ (s : State) r, s.rings[r].state = .halted → P s → P (State.onRing s r fun x => { x with state := .active })
  skip : ∀ (s : State) r, s.rings[r].state = .halted → P s →
    P (State.onRing s r fun x => { x with state := .active, fetched := x.producer })
  create : ∀ s r b n, P s → P (State.onRing s r fun _ => ⟨.active, b, n, 0, 0, false⟩)
  delete : ∀ s r, P s → P (State.onRing s r fun _ => .absent)
  produce : ∀ (s : State) r c, s.rings[r].state ≠ .absent → (c - s.rings[r].fetched).toNat ≤ s.rings[r].slots → P s →
    P (s.onRing r fun x => { x with producer := c })
  consume : ∀ (s : State) c, (c - s.completion.consumed).toNat ≤ s.completion.unread → P s →
    P { s with completion := { s.completion with consumed := c } }
  fetch : ∀ (s : State) r, s.mayFetch r = true → P s → P (s.grantFetch r)
  post : ∀ (s : State) b, s.completion.hasSpace = true → P s →
    P { s with completion := { s.completion with post := s.completion.post + 1, nextLap := b } }
  coalescing : ∀ (s : State) n m, P s → P { s with coalescingCount := n, coalescingTimer := m }
  -- Streams
  lane : ∀ (s : State) i w, P s → P ((s.laneStep i w).2.foldl (State.takeItem i) (s.laneStep i w).1)
  frameStart : ∀ s i n id, State.delivers s i = true → P s → P (s.takeFrameStart i n id)
  line : ∀ s i n e px d, P s → P (State.takeLine s i n e px d)
  frameEnd : ∀ s i n c, P s → P (State.takeFrameEnd s i n c)
  close : ∀ s i x, P s → P (State.closeFrame s i x)
  configure : ∀ s i p on, P s → P ((State.onStream s i fun x => x.takeProfile p).setLaneEnable i on)
  stage : ∀ s i t, P s → P (State.stageDefects s i t)

section

variable {P : State → Prop} (h : Kept P) {s : State}
include h

/-- A projection that keeps `still` keeps the property. -/
theorem Kept.of_quiet (m : State) (k : ∀ {γ : Type} {p : State → γ}, Quiet p → p m = p s) (hs : P s) : P m :=
  h.still s m (k State.still_quiet) hs

theorem Kept.queue (l : List EntryId) (hs : P s) : P { s with postQueue := l } := h.still s _ rfl hs

theorem Kept.enqueue (hs : P s) : P s.enqueue := h.queue _ hs

theorem Kept.complete (x : Status) (d : Word) (hs : P s) : P (s.complete x d) := h.of_quiet _ (·.complete _ _ _) hs

/-! ## Admin commands -/

theorem Kept.validateLoad (l : Load) (hs : P s) : P (s.validateLoad l) := by
  unfold State.validateLoad; split
  · exact h.complete _ _ (h.stage _ _ _ hs)
  · exact h.complete _ _ hs

theorem Kept.burstLands (j : Nat) (d : List Byte) (hs : P s) : P (s.burstLands j d) := by
  unfold State.burstLands; split
  · exact hs
  · have k : ∀ l, P (s.onLoad fun _ => l) := fun l => h.of_quiet _ (·.onLoad _ _) hs
    dsimp only; repeat' split
    · exact h.complete _ _ (k _)
    · exact k _
    · exact h.validateLoad _ (k _)
    · exact k _

theorem Kept.runCreateRing (i : StreamId) (b : Addr) (n : Nat) (hs : P s) : P (s.runCreateRing i b n) := by
  unfold State.runCreateRing; dsimp only; split
  · exact h.complete _ _ (h.create _ _ _ _ hs)
  · exact h.complete _ _ hs

theorem Kept.runDeleteRing (i : StreamId) (hs : P s) : P (s.runDeleteRing i) := by
  unfold State.runDeleteRing; dsimp only; repeat' split
  · exact h.complete _ _ hs
  · exact h.complete _ _ hs
  · exact h.complete _ _ (h.of_quiet _ (·.breakGroupsOf _ _) (h.delete _ _ hs))

theorem Kept.runResumeStream (i : StreamId) (b : Bool) (hs : P s) : P (s.runResumeStream i b) := by
  unfold State.runResumeStream; dsimp only; split
  · exact h.complete _ _ hs
  · next e =>
    have e : s.rings[ringOfStream i].state = .halted := by simpa using e
    split
    · exact h.complete _ _ (h.skip _ _ e hs)
    · exact h.complete _ _ (h.active _ _ e hs)

theorem Kept.runConfigureStream (i : StreamId) (b : Bool) (f : ProfileFields) (hs : P s) : P (s.runConfigureStream i b f) := by
  unfold State.runConfigureStream; repeat' split
  · exact h.complete _ _ hs
  · exact h.complete _ _ (h.configure _ _ _ _ hs)
  · exact h.complete _ _ hs

theorem Kept.runLoadDefects (i : StreamId) (a : Addr) (n : Nat) (hs : P s) : P (s.runLoadDefects i a n) := by
  unfold State.runLoadDefects; repeat' split
  · exact h.complete _ _ (h.stage _ _ _ hs)
  · exact h.of_quiet _ (fun q => q.admin _ _) hs
  · exact h.complete _ _ hs

theorem Kept.runAbortStream (i : StreamId) (hs : P s) : P (s.runAbortStream i) := by
  unfold State.runAbortStream; dsimp only; split
  · exact h.complete _ _ hs
  · next e =>
    exact h.of_quiet _ (fun q => by rw [q.breakGroupsOf, q.abortCaptures, q.abortList, q.admin]) (h.halt _ _ e hs)

theorem Kept.runOpenGroup (g : GroupId) (m : Byte) (n : Nat) (hs : P s) : P (s.runOpenGroup g m n) := by
  unfold State.runOpenGroup; repeat' split
  all_goals first | exact h.complete _ _ hs | exact h.complete _ _ (h.of_quiet _ (fun q => q.group _ _ _) hs)

theorem Kept.runCloseGroup (g : GroupId) (hs : P s) : P (s.runCloseGroup g) := by
  unfold State.runCloseGroup; split
  · exact h.complete _ _ hs
  · exact h.complete _ _ (h.of_quiet _ (·.breakGroup _ _) hs)

theorem Kept.runReadStats (i : StreamId) (a : Addr) (b : Bool) (hs : P s) : P (s.runReadStats i a b) := by
  unfold State.runReadStats; dsimp only; split
  · exact h.of_quiet _ (fun q => q.admin _ _) hs
  · exact h.complete _ _ hs

theorem Kept.startCommand (cmd : AdminCommand) (hs : P s) : P (s.startCommand cmd) := by
  have k := h.of_quiet _ (fun q => q.admin s { s.admin with executing := some cmd }) hs
  unfold State.startCommand State.run; split
  · exact h.complete _ _ k
  · exact h.runCreateRing _ _ _ k
  · exact h.runDeleteRing _ k
  · exact h.runResumeStream _ _ k
  · exact h.runConfigureStream _ _ _ k
  · exact h.runLoadDefects _ _ _ k
  · exact h.runAbortStream _ k
  · exact h.runOpenGroup _ _ _ k
  · exact h.runCloseGroup _ k
  · exact h.runReadStats _ _ _ k

theorem Kept.startWaiting (hs : P s) : P s.startWaiting := by
  unfold State.startWaiting; repeat' split
  · exact h.startCommand _ (h.of_quiet _ (fun q => q.admin _ _) hs)
  all_goals exact hs

theorem Kept.landCommand (e : EntryId) (tag : Word) (op : Option AdminOp) (hs : P s) : P (s.landCommand e tag op) := by
  have k := h.land s 0 hs
  unfold State.landCommand; dsimp only; repeat' split
  · exact h.of_quiet _ (·.entryReady _ _ _ _) k
  · exact k
  · unfold State.handCommand; split
    · exact h.startCommand _ k
    · exact h.of_quiet _ (fun q => q.admin _ _) k

/-! ## The same event -/

theorem Kept.conclude (hs : P s) : P s.conclude := by
  have k : P s.drain.startWaiting.drain.enqueue :=
    h.enqueue (h.of_quiet _ (·.drain _) (h.startWaiting (h.of_quiet _ (·.drain _) hs)))
  unfold State.conclude State.endings; repeat' split
  · exact h.stopped _
  · exact h.reset _
  · exact k

/-! ## Responses -/

theorem Kept.respond (d : Direction) (id : Nat) (f : Transaction → State → Option State)
    (hf : ∀ t u, s.trackerEntry d id = some (.issued t) → s.device ≠ .resetting →
      f t (s.setTracker d id .free) = some u → P u) (hs : P s) : P (s.respond d id f) := by
  unfold State.respond
  split
  · exact hs
  · next e =>
    unfold State.meeting at e; split at e
    · split at e <;> cases e
    · next t k => exact h.conclude (h.late _ _ _ t k hs)
    · cases e
    · cases e
  · next e =>
    unfold State.meeting at e; split at e
    · next t k => exact h.conclude (h.free _ _ _ t k hs)
    all_goals cases e
  · next t e =>
    unfold State.meeting at e; split at e
    · next t' k =>
      split at e
      · cases e
      · next hd =>
        cases e
        split
        · next u eu => exact h.conclude (hf _ _ k hd eu)
        · exact hs
    all_goals cases e

theorem Kept.takeBeat (id : Nat) (b : Beat) (f : Transaction → ReadAnswer → State → Option State)
    (hf : ∀ t a u, s.readEntry id = some (.issued t) → s.device ≠ .resetting →
      f t a (s.setTracker .read id .free) = some u → P u) (hs : P s) : P (s.takeBeat id b f) := by
  unfold State.takeBeat; split
  · exact h.respond _ _ _ (fun t u k hd e => hf t _ u k hd e) hs
  · unfold State.collectBeat; split
    · next k => exact h.collect _ _ _ _ k hs
    · exact hs

omit h in
/-- The read of an admin slot that lands is the event's own transaction. -/
theorem State.adminAnswer_some {t : Transaction} {tag : Word} {op : Option AdminOp} {u : State}
    (e : State.adminAnswer t tag op s = some u) : ∃ x, u = s.landCommand x tag op := by
  unfold State.adminAnswer at e; repeat' split at e
  · exact ⟨_, (Option.some.inj e).symm⟩
  all_goals cases e

theorem Kept.adminCommand (tag : Word) (op : AdminOp) (hs : P s) : P (s.adminCommand tag op) := by
  unfold State.adminCommand; split
  · refine h.respond _ _ _ (fun t u k _ e => ?_) hs
    split at e
    · obtain ⟨x, rfl⟩ := State.adminAnswer_some e; exact h.landCommand _ _ _ (h.free _ _ _ t k hs)
    · cases e
  · exact hs

theorem Kept.slotFails (e : EntryId) (id : Nat) (t : Transaction) (k : s.readEntry id = some (.issued t))
    (hd : s.device ≠ .resetting) (hs : P s) : P ((s.setTracker .read id .free).slotFails e) := by
  have hf := h.free s .read id t k hs
  have ha := h.fetchFaulted s id t (ringOfEntry e) .adminFetch (by decide) k hd hs
  generalize s.setTracker .read id .free = s at hf ha ⊢
  unfold State.slotFails
  have k := h.land s (ringOfEntry e) hf
  dsimp only; split
  · exact ha
  · have k2 := h.of_quiet _ (fun q => q.entryReady _ e (.unbound .fetchFault 0 0) true) k
    generalize State.entryReady _ e _ _ = m at k2 ⊢
    by_cases ha : m.rings[ringOfEntry e].state = .active
    · have := h.halt m (ringOfEntry e) (by rw [ha]; decide) k2
      simp only [State.onRing, ha, if_true] at this ⊢; exact this
    · simp only [State.onRing, ha, if_false]
      have v : m.rings.set (ringOfEntry e) m.rings[ringOfEntry e] = m.rings := Vector.set_getElem_self ..
      exact h.still m _ (congrArg (fun v => State.still { m with rings := v }) v) k2

theorem Kept.enterStopping (hd : s.device = .running) (hs : P s) : P s.enterStopping := by
  unfold State.enterStopping
  exact h.of_quiet _ (fun q => by rw [q.abortEverything, q.abortWaiting]) (h.stopping s hd hs)

theorem Kept.landSlot (i : StreamId) (e : EntryId) (r : List Byte) (hs : P s) : P (s.landSlot i e r) := by
  have k := h.land s (ringOfStream i) hs
  unfold State.landSlot; dsimp only; repeat' split
  · exact k
  · exact h.of_quiet _ (fun q => by rw [q.countAborted, q.entryReady]) k
  · exact h.of_quiet _ (·.joinList _ _ _) k
  · exact h.of_quiet _ (·.entryReady _ _ _ _) k

theorem Kept.word (i : StreamId) (w : WordClass) (hs : P s) : P (s.word i w) := by
  have k := h.lane s i w hs
  unfold State.word; split
  · next e => rw [e] at k; exact k
  · next e => rw [e] at k; exact h.conclude k

/-! ## The Register Window -/

theorem Kept.writeEnable (on : Bool) (hs : P s) : P (s.writeEnable on) := by
  unfold State.writeEnable; split
  · exact hs
  · have k := h.enable s on s.enableDropped hs
    dsimp only; split
    · next e _ => exact h.start _ e k
    · exact h.enable _ _ true hs
    · next e _ => exact h.conclude (h.enterStopping e k)
    · exact k

theorem Kept.writeSoftReset (hs : P s) : P s.writeSoftReset := by
  unfold State.writeSoftReset; split
  · exact hs
  · next e => exact h.conclude (h.softReset _ e hs)

theorem Kept.writeProducer (x : Byte) (c : Half) (hs : P s) : P (s.writeProducer x c) := by
  unfold State.writeProducer; split
  · exact h.irq _ _ _ hs
  · split
    · exact h.irq _ _ _ hs
    · next e =>
      simp only [Bool.or_eq_true, decide_eq_true_eq, not_or, Nat.not_lt] at e
      exact h.produce _ _ _ e.1 e.2 hs

theorem Kept.writeConsumed (c : Half) (hs : P s) : P (s.writeConsumed c) := by
  unfold State.writeConsumed; split
  · exact h.irq _ _ _ hs
  · next e =>
    simp only [Bool.or_eq_true, decide_eq_true_eq, not_or, Nat.not_lt] at e
    exact h.consume _ _ e.2 hs

theorem Kept.writeRegister (o w : Word) (hs : P s) : P (s.writeRegister o w) := by
  unfold State.writeRegister; repeat' split
  · exact h.writeSoftReset hs
  · exact h.writeEnable _ hs
  · exact h.address _ _ hs
  · exact h.address _ _ hs
  · exact h.writeProducer _ _ hs
  · exact h.writeConsumed _ hs
  · exact h.irq _ _ _ hs
  · exact h.irq _ _ _ hs
  · exact hs

omit h in
theorem Kept.strobed {t u : State} {b : Strobes} (hs : P s) (k : P t) (e : Machine.strobed b s t = .next u) : P u := by
  unfold Machine.strobed at e; injection e with e; subst e; split
  · exact k
  · exact hs

/-! ## The rest of the rings and the Memory Port -/

theorem Kept.judgeSetup (id : Nat) (t : Transaction) (k : s.readEntry id = some (.issued t)) (ho : t.owner = some .deviceStart)
    (hd : s.device ≠ .resetting) (r : List Byte) (hs : P s) : P ((s.setTracker .read id .free).judgeSetup r) := by
  unfold State.judgeSetup; split
  · exact h.faulted _ .read _ t _ (by decide) k hd hs
  · next v _ =>
    have k2 := h.setup s id t v k ho hd hs
    have hr := State.startRunning_device (s.setTracker .read id .free) v
    generalize State.startRunning _ _ = u at k2 hr ⊢
    unfold State.honourEnable; split
    · exact k2
    · exact h.enterStopping hr k2

theorem Kept.acknowledge (e : EntryId) (hs : P s) : P (s.acknowledge e) := by
  have k : P (s.onEntry e fun _ => .free) := h.of_quiet _ (fun q => q.entry _ _ _) hs
  unfold State.acknowledge; dsimp only; split
  · unfold State.coalesce; split
    · exact k
    · split
      · exact h.irq _ _ _ (h.coalescing _ _ _ k)
      · exact h.coalescing _ _ _ k
  · exact k

theorem Kept.postHead (hd : s.device = .running ∨ s.device = .stopping) (hp : s.completion.hasSpace = true) (hs : P s) :
    P s.postHead := by
  unfold State.postHead; split
  · exact hs
  · next e rest _ =>
    dsimp only
    have k : P (s.onEntry e fun h => { h with state := .posting, completionSlot := slotOf s.completion.post s.completion.slots }) :=
      h.of_quiet _ (fun q => q.entry _ _ _) hs
    have kd : (s.onEntry e fun h => { h with
        state := .posting, completionSlot := slotOf s.completion.post s.completion.slots }).device = s.device := rfl
    have kc : (s.onEntry e fun h => { h with
        state := .posting, completionSlot := slotOf s.completion.post s.completion.slots }).completion = s.completion := rfl
    generalize (s.onEntry e fun h => { h with
        state := .posting, completionSlot := slotOf s.completion.post s.completion.slots }) = u at k kd kc ⊢
    have k3 := h.queue rest (h.post u (if slotOf s.completion.post s.completion.slots + 1 = u.completion.slots then
      !u.completion.nextLap else u.completion.nextLap) (by rw [kc]; exact hp) k)
    exact h.write _ _ _ _ _ (by rw [← kd] at hd; exact hd) k3

theorem Kept.issueBurst (i : StreamId) (hd : s.device = .running ∨ s.device = .stopping) (hs : P s) : P (s.issueBurst i) := by
  unfold State.issueBurst; split
  · exact hs
  · next l rest _ =>
    dsimp only
    have k1 : P (s.onCapture i l.context fun k => { k with outstanding := k.outstanding + 1 }) :=
      h.of_quiet _ (·.onCapture _ _ _ _) hs
    have d1 : (s.onCapture i l.context fun k => { k with outstanding := k.outstanding + 1 }).device = s.device := rfl
    generalize (s.onCapture i l.context fun k => { k with outstanding := k.outstanding + 1 }) = u at k1 d1
    have k2 : P (if l.issued = 0 then u.accountLine i l else u) := by
      split
      · exact h.of_quiet _ (·.accountLine _ _ _) k1
      · exact k1
    have d2 : (if l.issued = 0 then u.accountLine i l else u).device = s.device := by
      rw [← d1]; split
      · exact (congrArg State.device (State.shell_quiet.accountLine u i l) :)
      · rfl
    generalize (if l.issued = 0 then u.accountLine i l else u) = w at k2 d2
    exact h.write _ _ _ _ _ (by rw [← d2] at hd; exact hd) (h.of_quiet _ (fun q => q.stream _ _ _ rfl) k2)

/-! ## Every command -/

/-- A property that every operation keeps is kept by every command. -/
theorem Kept.exec (c : Instr) {t : State} (hs : P s) (e : Machine.exec c s = .next t) : P t := by
  cases c <;> simp only [Machine.exec] at e
  case enable => exact Kept.strobed hs (h.writeEnable _ hs) e
  case softReset => exact Kept.strobed hs (h.writeSoftReset hs) e
  case softResetEnds => injection e with e; subst e; split; exact h.reset _; exact hs
  case pinReset => injection e with e; subst e; exact h.reset _
  case producer => exact Kept.strobed hs (h.writeProducer _ _ hs) e
  case consumed => exact Kept.strobed hs (h.writeConsumed _ hs) e
  case irqStatus => exact Kept.strobed hs (h.irq _ _ _ hs) e
  case irqEnable => exact Kept.strobed hs (h.irq _ _ _ hs) e
  case registerWrite => exact Kept.strobed hs (h.writeRegister _ _ hs) e
  case setupReadResponse =>
    injection e with e; subst e
    refine h.takeBeat _ _ _ (fun t a u k hd e => ?_) hs
    split at e
    · next ho => obtain rfl := Option.some.inj e; exact h.judgeSetup _ t k ho hd _ hs
    · obtain rfl := Option.some.inj e; exact h.faulted _ _ _ t _ (by decide) k hd hs
    · cases e
  case fetchGrant =>
    injection e with e; subst e; split
    · next r e =>
      unfold State.fetchChoice at e; split at e
      · exact h.fetch _ _ (List.find?_some e) hs
      · cases e
    · exact hs
  case slotReadLands =>
    injection e with e; subst e
    refine h.takeBeat _ _ _ (fun t a u k hd e => ?_) hs
    split at e
    · split at e
      · obtain rfl := Option.some.inj e; exact h.landSlot _ _ _ (h.free _ _ _ t k hs)
      · cases e
    · cases e
  case adminSlotLands =>
    injection e with e; subst e
    refine h.takeBeat _ _ _ (fun t a u k hd e => ?_) hs
    split at e
    · obtain ⟨x, rfl⟩ := State.adminAnswer_some e; exact h.landCommand _ _ _ (h.free _ _ _ t k hs)
    · cases e
  case slotReadFails =>
    injection e with e; subst e
    refine h.takeBeat _ _ _ (fun t a u k hd e => ?_) hs
    split at e
    · obtain rfl := Option.some.inj e; exact h.slotFails _ _ t k hd hs
    · cases e
  case createRing => injection e with e; subst e; exact h.adminCommand _ _ hs
  case deleteRing => injection e with e; subst e; exact h.adminCommand _ _ hs
  case resumeStream => injection e with e; subst e; exact h.adminCommand _ _ hs
  case configureStream => injection e with e; subst e; exact h.adminCommand _ _ hs
  case loadDefects => injection e with e; subst e; exact h.adminCommand _ _ hs
  case defectBurstIssue =>
    injection e with e; subst e; split
    · next c =>
      unfold State.issueDefectBurst; split
      · next l hl =>
        have hd : s.device = .running ∨ s.device = .stopping := by
          unfold State.mayBurst at c; rw [hl] at c
          simp only [Bool.and_eq_true, Bool.or_eq_true, decide_eq_true_eq] at c; exact c.1.2
        exact h.read _ _ _ _ _ _ hd (by simp) (h.of_quiet _ (·.onLoad _ _) hs)
      · exact hs
    · exact hs
  case defectBurstLands =>
    injection e with e; subst e
    refine h.takeBeat _ _ _ (fun t a u k hd e => ?_) hs
    split at e
    · obtain rfl := Option.some.inj e; exact h.burstLands _ _ (h.free _ _ _ t k hs)
    · cases e
  case defectBurstFails =>
    injection e with e; subst e
    refine h.takeBeat _ _ _ (fun t a u k hd e => ?_) hs
    split at e
    · obtain rfl := Option.some.inj e; exact h.of_quiet _ (·.burstFails _) (h.free _ _ _ t k hs)
    · cases e
  case abortStream => injection e with e; subst e; exact h.adminCommand _ _ hs
  case abortStreamCompletes =>
    injection e with e; subst e; split
    · exact h.conclude (h.of_quiet _ (·.abortEnds _) hs)
    · exact hs
  case openGroup => injection e with e; subst e; exact h.adminCommand _ _ hs
  case closeGroup => injection e with e; subst e; exact h.adminCommand _ _ hs
  case readStats => injection e with e; subst e; exact h.adminCommand _ _ hs
  case statisticsBlockIssue =>
    injection e with e; subst e; split
    · next g =>
      have hd := (State.granted_some g).1
      unfold State.issueBlock; split
      · exact h.write _ _ _ _ _ hd (h.of_quiet _ (fun q => q.admin _ _) (h.turn _ _ hs))
      · exact h.turn _ _ hs
    · exact hs
  case statisticsBlockResponse =>
    injection e with e; subst e
    refine h.respond _ _ _ (fun t u k hd e => ?_) hs
    split at e
    · obtain rfl := Option.some.inj e; exact h.of_quiet _ (·.blockLanded _) (h.free _ _ _ t k hs)
    · obtain rfl := Option.some.inj e; exact h.complete _ _ (h.free _ _ _ t k hs)
    · cases e
  case adminCommandStart =>
    injection e with e; subst e; split
    · exact h.conclude (h.startWaiting hs)
    · exact hs
  case idleWord => injection e with e; subst e; exact h.word _ _ hs
  case trainWord => injection e with e; subst e; exact h.word _ _ hs
  case dataWord => injection e with e; subst e; exact h.word _ _ hs
  case illegalWord => injection e with e; subst e; exact h.word _ _ hs
  case frameStart =>
    injection e with e; subst e; split
    · next d => exact h.conclude (h.frameStart _ _ _ _ d hs)
    · exact hs
  case line => injection e with e; subst e; exact h.line _ _ _ _ _ _ hs
  case frameEnd =>
    injection e with e; subst e; split
    · exact h.conclude (h.frameEnd _ _ _ _ hs)
    · exact hs
  case dataBurstIssue =>
    injection e with e; subst e; split
    · next g =>
      have hd := (State.granted_some g).1
      split
      · exact h.issueBurst _ hd (h.turn _ _ hs)
      · exact hs
    · exact hs
  case flushStep =>
    injection e with e; subst e; split
    · exact hs
    · exact h.of_quiet _ (·.flushStream _ _) hs
  case dataBurstResponse =>
    injection e with e; subst e
    refine h.respond _ _ _ (fun t u k hd e => ?_) hs
    split at e
    · obtain rfl := Option.some.inj e; exact h.of_quiet _ (·.burstWritten _ _ _) (h.free _ _ _ t k hs)
    · cases e
  case dataBurstError =>
    injection e with e; subst e
    refine h.respond _ _ _ (fun t u k hd e => ?_) hs
    split at e
    · obtain rfl := Option.some.inj e; exact h.of_quiet _ (·.writeFault _ _ _) (h.free _ _ _ t k hs)
    · cases e
  case captureFinishes =>
    injection e with e; subst e; split
    · exact h.conclude (h.of_quiet _ (·.finishCapture _ _ _) hs)
    · exact hs
  case groupResolves =>
    injection e with e; subst e; split
    · exact h.conclude (h.of_quiet _ (·.resolveGroup _ _) hs)
    · exact hs
  case post =>
    injection e with e; subst e; split
    · next g =>
      have hg := State.granted_some g
      have hp : s.completion.hasSpace = true := by
        have := hg.2; simp only [State.requesterReady, if_true, Bool.and_eq_true] at this; exact this.2
      exact h.enqueue (h.postHead hg.1 hp (h.turn _ _ hs))
    · exact hs
  case completionWriteAck =>
    injection e with e; subst e
    refine h.respond _ _ _ (fun t u k hd e => ?_) hs
    split at e
    · obtain rfl := Option.some.inj e; exact h.acknowledge _ (h.free _ _ _ t k hs)
    · cases e
  case completionWriteError =>
    injection e with e; subst e
    refine h.respond _ _ _ (fun t u k hd e => ?_) hs
    split at e
    · obtain rfl := Option.some.inj e; exact h.faulted _ _ _ t _ (by decide) k hd hs
    · cases e
  case lateResponse d id =>
    injection e with e; subst e; split
    · next e =>
      unfold State.meeting at e; split at e
      · split at e <;> cases e
      · next t k => exact h.conclude (h.late _ _ _ t k hs)
      all_goals cases e
    · exact hs
  case strayResponse => injection e with e; subst e; exact hs
  case resettingResponse =>
    injection e with e; subst e; split
    · next e =>
      unfold State.meeting at e; split at e
      · next t k => exact h.conclude (h.free _ _ _ t k hs)
      all_goals cases e
    · exact hs
  case responseTimeout =>
    injection e with e; subst e; split
    · next t k =>
      split
      · next l =>
        have hd : s.device ≠ .resetting := by
          unfold State.responseLate at l; simp only [Bool.and_eq_true, bne_iff_ne] at l; exact l.1
        exact h.conclude (h.timeout _ _ _ t k hd hs)
      · exact hs
    · exact hs
  case deadlineTimerRunsOut =>
    injection e with e; subst e; split
    · split
      · exact h.conclude (h.of_quiet _ (·.finishHead _ _ _) hs)
      · exact hs
    · exact hs
  case lineGapTimeout =>
    injection e with e; subst e; split
    · split
      · exact h.conclude (h.close _ _ _ hs)
      · exact hs
    · exact hs
  case groupTimeout =>
    injection e with e; subst e; split
    · split
      · exact h.conclude (h.of_quiet _ (·.breakGroup _ _) hs)
      · exact hs
    · exact hs
  case coalescingTimerRunsOut =>
    injection e with e; subst e; split
    · split
      · exact h.irq _ _ _ (h.coalescing _ _ _ hs)
      · exact hs
    · exact hs
  case stopCompletes => injection e with e; subst e; split; exact h.stopped _; exact hs
  case timeBaseTick => injection e with e; subst e; exact h.tick _ _ hs

/-- A property that every operation keeps is kept by every step. -/
theorem Kept.step {t : State} (hs : P s) (e : Machine.step s = .next t) : P t := by
  unfold Machine.step at e; split at e
  · injection e with e; subst e; exact hs
  · next c rest _ => exact h.exec c (s := { s with pending := rest }) (h.still s _ rfl hs) e

end

end Sys2Proof.Machine
end

