-- ==== Sys2Proof/Tests/Slice0.lean ====
section
/-! SUPPORT. Tests of the checks, of the manual's own examples and of single commands, and for every statement that
has hypotheses a witness: concrete states and operands that meet them, clause by clause. -/

namespace Sys2Proof.Tests

-- One test at a time: side by side they take a thread each, and the memory of one.
set_option Elab.async false

open Sys2Proof.Machine

/-! ## Small states -/

/-- A SINGLE profile. -/
def prof : Profile := ⟨3, 16, 100, .single, 0, 0, 8, 3000, 0, 0, 64, 5⟩

/-- A PAIRED profile with room for two held lines. -/
def pairedProf : Profile := ⟨3, 16, 100, .paired, 1, 2, 8, 3000, 0, 0, 64, 5⟩

/-- The values of a setup record. -/
def theSetup : Setup := ⟨0x1000, 4, 0x2000, 4, 2, 100, 10⟩

/-- A stream whose lane is in RUN with a profile. -/
def linkedStream (p : Profile) : StreamState :=
  { StreamState.reset with laneEnable := true, active := some p, lane := ⟨.run, 0, 0, .gap⟩ }

/-- RUNNING, with the admin ring and the ring of stream 0, and stream 0 linked. -/
def run : State := { State.reset with
  device := .running, enable := true, setup := some theSetup, timeBase := 10000
  rings := (State.reset.rings.set 0 ⟨.active, 0x1000, 4, 0, 0, false⟩).set 1 ⟨.active, 0x4000, 4, 0, 0, false⟩
  completion := ⟨true, 0x2000, 4, 0, 0, true⟩
  streams := State.reset.streams.set 0 (linkedStream prof) }

/-- `run` with stream 0 changed. -/
def on0 (f : StreamState → StreamState) : State := run.onStream 0 f

/-- `run` with the lane of stream 0 changed. -/
def lane0 (l : Lane) : State := on0 fun x => { x with lane := l }

/-- A transaction of an owner. -/
def trans (o : Owner) : Transaction := ⟨.slotFetch, some o, 0x1000, 64, 0, 1, []⟩

/-- `s` with a read in flight for an owner. -/
def reads (s : State) (o : Owner) : State := { s with reads := s.reads.set 0 (.issued (trans o)) }

/-- `s` with a write in flight for an owner. -/
def writes (s : State) (o : Owner) : State := { s with writes := s.writes.set 0 (.issued (trans o)) }

/-- `run` with an admin slot read in flight. -/
def adminReads : State := reads run (.slot 0)

/-- A CAPTURE request of stream 0: four rows from line 2, eight columns. -/
def capture : Request :=
  ⟨2, .capture, 7, .plain, .u16, .next, 0, none, 1, false, false, false, true, 2, 4, 0, 8, 64, 0x10000, 4096, 0⟩

/-- `capture` asking for a frame by its number. -/
def numbered (n : Half) : Request := { capture with selector := .numbered, number := n }

/-- A CAPTURE that names group 1. -/
def member : Request := { capture with group := some 0 }

/-- A MARK of stream 0. -/
def mark : Request := { capture with kind := .mark }

/-- The frame in progress, bound to context 0 or to none. -/
def frame (bound : Option ContextId) : Frame := ⟨5, 0, false, bound, none, none, none⟩

/-- A capture in CAPTURING. -/
def bound (q : Request) (p : Profile) : Capture := q.bindTo (frame none) p []

/-- Stream 0 in a frame bound to a capture in context 0. -/
def inFrame (q : Request) (p : Profile) : State := on0 fun x => { x with
  active := some p, frame := some (frame (some 0)), gapTimer := some 0
  contexts := x.contexts.set 0 (some (bound q p)) }

/-- A finished line of context 0. -/
def outLine : OutputLine := ⟨0, .one, 0, 0x10000, List.replicate 16 0, false, false, false, 0⟩

/-- Stream 0 with one buffered line of its capture. -/
def buffered : State := (inFrame capture prof).onStream 0 fun x => { x with buffer := [outLine] }

/-- A held line of stream 0, context 0. -/
def held (index : Nat) : HeldLine := ⟨0, 0, index, List.replicate 8 0, false, false⟩

/-- `capture` with assembly MERGE or SPLIT. -/
def assembled (a : Assembly) : Request := { capture with assembly := a }

/-- A MERGE capture with held lines, in a frame of a PAIRED stream. -/
def merging (l : List HeldLine) : State := { inFrame (assembled .merge) pairedProf with pairing := l }

/-- Stream 0 in a frame with no capture. -/
def unboundFrame : State := on0 fun x => { x with frame := some (frame none), gapTimer := some 5000 }

/-- A load of one entry. -/
def load : Load := ⟨0, 0x3000, 1, 1, 0, 0, 0, false, []⟩

/-- `s` with an admin command in execution. -/
def executing (s : State) (f : AdminUnit → AdminUnit) : State :=
  { s with admin := f { s.admin with executing := some ⟨0, 9, some (.readStats 0 0x40 true)⟩ } }

/-- A group entry in a state, with stream 0 and stream 1 in its mask and a slot of stream 0. -/
def group (st : GroupState) (x : MemberSlot) : Group :=
  ⟨st, #v[true, true, false, false], (Vector.replicate 4 .empty).set 0 x, none, 1, some 0⟩

/-- A group whose two members have finished, or one of them is still bound. -/
def gathered (st : GroupState) (p : SlotProgress) : Group :=
  { group st ⟨.finished, some member, some .ok⟩ with
    slots := #v[⟨.finished, some member, some .ok⟩, ⟨p, some { member with entry := 8 }, some .ok⟩, .empty, .empty] }

/-- `s` with group entry 0. -/
def grouped (s : State) (e : Group) : State := { s with groups := s.groups.set 0 e }

/-- The last beat of a read, with its data, and one with an error. -/
def lastBeat (d : List Byte) : Beat := ⟨d, .okay, true⟩
def badBeat : Beat := ⟨[0], .error .slverr, true⟩

/-- A record of an empty setup: admin ring at 0x1000, completion ring at 0x2000, threshold 2. -/
def setupRecord : List Byte :=
  leBytes 8 0x1000 ++ [2, 2, 2, 10] ++ leBytes 2 100 ++ zeros 2 ++ leBytes 8 0x2000 ++ zeros 40

/-- The fields of `prof`. -/
def fields : ProfileFields := ⟨3, 0, 0, 0, 16, 100, 8, 0, 0, 5, 3000, 64⟩

/-! ## WellFormed refuses an ill-formed command of each kind -/

theorem test_refuses_empty_setup_beat : (Instr.setupReadResponse 0 (lastBeat [])).wellFormed = false := by decide
theorem test_refuses_long_slot_beat : (Instr.slotReadLands 0 (lastBeat (zeros 65))).wellFormed = false := by decide
theorem test_refuses_empty_admin_slot : (Instr.adminSlotLands 0 (lastBeat [])).wellFormed = false := by decide
theorem test_refuses_empty_failure : (Instr.slotReadFails 0 ⟨[], .error .decerr, true⟩).wellFormed = false := by decide
theorem test_refuses_long_burst_beat : (Instr.defectBurstLands 0 (lastBeat (zeros 257))).wellFormed = false := by decide +kernel
theorem test_refuses_long_burst_failure : (Instr.defectBurstFails 0 ⟨zeros 257, .okay, false⟩).wellFormed = false := by
  decide +kernel
theorem test_refuses_idle_as_illegal : (Instr.illegalWord 0 (some idleCode)).wellFormed = false := by decide
theorem test_refuses_train_as_illegal : (Instr.illegalWord 0 (some trainCode)).wellFormed = false := by decide
theorem test_refuses_line_without_pixels : (Instr.line 0 0 .single [] false).wellFormed = false := by decide
theorem test_takes_a_record : (Instr.slotReadLands 0 (lastBeat (requestRecord capture))).wellFormed = true := by decide +kernel

/-- The table gives its rows no bits: no word spells a command. -/
theorem test_no_table_word : decodeTableWord 32 0 = none := rfl

/-! ## The manual's examples -/

/-- The example of chapter 4: columns 9, 11 and 15 of line 20 repaired. -/
theorem test_repair_example :
    (repairLine [⟨20, 9, .average⟩, ⟨20, 11, .right⟩, ⟨20, 15, .right⟩] 20
      [0, 0, 0, 0, 0, 0, 0, 570, 580, 4000, 600, 0, 620, 630, 640, 650]).drop 8
      = [580, 285, 600, 630, 620, 630, 640, 630] := by decide

/-- The same line after black 101. -/
theorem test_black_example :
    [580, 285, 600, 630, 620, 630, 640, 630].map (subPixel · 101) = [479, 184, 499, 529, 519, 529, 539, 529] := by decide

/-- Its first pair in P12: 29 and 11. -/
theorem test_p12_example : packP12 [479, 184] = [0x1D, 0xB0, 0x00] := by decide

/-- The reference rows of that example: the mean of lines 0 and 1, fixed by line 2. -/
theorem test_black_mean :
    (((Black.start.accumulate (List.replicate 16 100)).accumulate (List.replicate 16 103)).fix 64) = ⟨3248, 32, some 101⟩ := by
  decide

/-- The example of section 5.3: knee 3000, ratio 8. -/
theorem test_merge_example :
    List.zipWith (mergePixel 3000 8) [2500, 3200, 65535] [310, 450, 9000] = [2500, 3600, 65535] := by decide

/-- Written short-only: 310 × 8, 450 × 8 and 65535. -/
theorem test_short_only_example : [310, 450, 9000].map (scalePixel · 8) = [2480, 3600, 65535] := by decide

/-- The payload check of "12345678" by the polynomial of R208, a published value of that check. -/
theorem test_payload_check : [0x3132, 0x3334, 0x3536, 0x3738].foldl payloadStep payloadStart = 0xA12B := by decide +kernel

/-- The header check of a FRAME_START of frame 7, profile 3, worked by hand from R208. -/
theorem test_header_check : judgeHeader 0x00A1 7 3 0x21 = some (.frameStart 7 3) := by decide +kernel

/-- The example of section 8.2: fetch count 65534, producer 3, five slots skipped. -/
theorem test_skip_across_wrap : ({ Ring.absent with fetched := 65534, producer := 3 } : Ring).pendingCount = 5 := by decide

/-- Frame 0 is ahead of frame 65535 (R2). -/
theorem test_frame_wraps : frameOrder 0 65535 = .ahead ∧ frameOrder 32768 0 = .behind := by decide

/-- A burst ends at a 4096-byte boundary (R181). -/
theorem test_burst_boundary : burstLength 0x1FC0 512 = 64 ∧ burstLength 0x2000 512 = 256 := by decide

/-! ## Single commands -/

theorem test_time_wraps : exec .timeBaseTick { State.reset with timeBase := 0xFFFFFFFF } = .next State.reset := rfl

theorem test_producer_ahead_ignored :
    ∃ t, exec (.producer allStrobes 0x00010005#32) run = .next t ∧ t.irqStatus = irqWriteIgnored ∧ t.rings = run.rings :=
  ⟨_, rfl, by decide +kernel⟩

theorem test_producer_full_taken :
    ∃ t, exec (.producer allStrobes 0x00010004#32) run = .next t ∧ t.rings[(1 : RingId)].producer = 4 :=
  ⟨_, rfl, by decide +kernel⟩

theorem test_line_asserted :
    ∃ t, exec (.irqEnable allStrobes 2) { run with irqStatus := irqWriteIgnored } = .next t ∧ t.irqLine = true :=
  ⟨_, rfl, by decide +kernel⟩

/-- A row of `capture` is stored at window row 1: buffer + pitch. -/
theorem test_row_address :
    ∃ t, exec (.line 0 3 .single (List.replicate 16 1) false) (inFrame capture prof) = .next t
      ∧ t.streams[(0 : StreamId)].buffer.map (·.address) = [0x10040] := ⟨_, rfl, by decide +kernel⟩

/-! ## Witnesses: the queue and the Register Window -/

theorem witness_StepRunsFront :
    State.reset.pending = [] ∧ ({ run with pending := [.timeBaseTick, .post] } : State).pending = .timeBaseTick :: [.post] :=
  ⟨rfl, rfl⟩

theorem witness_SoftResetBegins :
    run.device ≠ .resetting ∧ run.allFree ∧ adminReads.device ≠ .resetting ∧ ¬adminReads.allFree := by decide +kernel

/-- `run` in another device state. -/
def inState (d : DeviceState) : State := { run with device := d }

theorem witness_StopAndResetEnd :
    ((inState .stopping).device = .stopping ∧ (∀ e : EntryId, (inState .stopping).holding[e].state = .free)
      ∧ (inState .stopping).allFree)
    ∧ ¬((reads (inState .stopping) (.slot 0)).device = .stopping
      ∧ (∀ e : EntryId, (reads (inState .stopping) (.slot 0)).holding[e].state = .free)
      ∧ (reads (inState .stopping) (.slot 0)).allFree)
    ∧ ((inState .resetting).device = .resetting ∧ (inState .resetting).allFree)
    ∧ ¬((reads (inState .resetting) (.slot 0)).device = .resetting ∧ (reads (inState .resetting) (.slot 0)).allFree) := by
  decide +kernel

/-- OFF with a SETUP address. -/
def offAt (a : Addr) : State := { State.reset with setupAddress := a }

theorem witness_EnableStarts :
    ((offAt 0xFFFFFFFFFFFFFFC0).device = .off ∧ (offAt 0xFFFFFFFFFFFFFFC0).enable = false
      ∧ (offAt 0xFFFFFFFFFFFFFFC0).allLanesOff ∧ (offAt 0xFFFFFFFFFFFFFFC0).setupAddress.toNat % 64 = 0
      ∧ (offAt 0xFFFFFFFFFFFFFFC0).setupAddress.toNat + 64 ≤ 2 ^ 64 ∧ (offAt 0xFFFFFFFFFFFFFFC0).nextRead 0)
    ∧ ((offAt 63).device = .off ∧ (offAt 63).allLanesOff ∧ (offAt 63).setupAddress.toNat % 64 ≠ 0) := by
  decide +kernel

/-- A stream at its reset values fits a state. -/
theorem reset_fits {s : State} {i : StreamId} (h : s.streams[i] = .reset) : s.streamFits i := by
  constructor <;> rw [h]
  · exact ⟨by decide, by decide, by decide, by decide, by decide, nofun, nofun⟩
  · simp [StreamState.reset, Lane.off]
  · simp [StreamState.reset]
  · simp [StreamState.reset]
  · simp [StreamState.reset]

/-- The linked stream of `run` fits RUNNING. -/
theorem linked_fits {s : State} {i : StreamId} (hd : s.device = .running) (h : s.streams[i] = linkedStream prof) :
    s.streamFits i := by
  constructor <;> rw [h]
  · exact ⟨by decide, by decide, by decide, by decide, by decide, nofun, nofun⟩
  · simp [hd, linkedStream]
  · simp [linkedStream]
  · simp [linkedStream]
  · simp [linkedStream, StreamState.reset]

theorem run_fits {s : State} (hd : s.device = .running) (hs : s.streams = run.streams) : ∀ i, s.streamFits i := by
  intro i
  match i with
  | 0 => exact linked_fits hd (by rw [hs]; decide +kernel)
  | 1 => exact reset_fits (by rw [hs]; decide +kernel)
  | 2 => exact reset_fits (by rw [hs]; decide +kernel)
  | 3 => exact reset_fits (by rw [hs]; decide +kernel)

theorem witness_EnableStops :
    adminReads.device = .running ∧ adminReads.enable = true ∧ (∀ i, adminReads.streamFits i) ∧ ¬adminReads.allFree :=
  ⟨rfl, rfl, run_fits rfl rfl, by decide +kernel⟩

/-- An admin slot in flight and two requests listed at stream 0. -/
def listed : State := adminReads.onStream 0 fun x => { x with prefetch := [capture, mark] }

theorem listed_fits : ∀ i, listed.streamFits i := by
  intro i
  have h : listed.streams[(0 : StreamId)] = { linkedStream prof with prefetch := [capture, mark] } := by decide +kernel
  match i with
  | 0 =>
    have k := linked_fits (s := run) (i := 0) rfl (by decide +kernel)
    exact ⟨by rw [h]; exact k.lane, by rw [h]; exact k.off, by rw [h]; exact k.enabled, by rw [h]; exact k.framing,
      by rw [h]; exact k.timer⟩
  | 1 => exact reset_fits (by decide +kernel)
  | 2 => exact reset_fits (by decide +kernel)
  | 3 => exact reset_fits (by decide +kernel)

theorem witness_EnableStops_listed :
    (∀ i, listed.streamFits i) ∧ listed.device = .running ∧ listed.enable = true ∧ listed.admin.waiting = none
    ∧ ({ listed with admin := { listed.admin with waiting := some ⟨1, 9, none⟩ } } : State).admin.waiting
      = some ⟨1, 9, none⟩ := ⟨listed_fits, by decide +kernel⟩

/-- A frame in progress, and a group's registered member at the head of the list. -/
def framedMember : State :=
  grouped (adminReads.onStream 0 fun x => { x with
    prefetch := [member, { mark with entry := 3 }], frame := some (frame none), gapTimer := some 0 })
    (group .opened ⟨.registered, some member, none⟩)

theorem witness_EnableStops_framed :
    (∀ i, framedMember.streamFits i) ∧ framedMember.device = .running ∧ framedMember.enable = true
    ∧ framedMember.admin.waiting = none := by
  refine ⟨fun i => ?_, by decide +kernel⟩
  have h : framedMember.streams[(0 : StreamId)] = { linkedStream prof with
      prefetch := [member, { mark with entry := 3 }], frame := some (frame none), gapTimer := some 0 } := by decide +kernel
  match i with
  | 0 =>
    have k := linked_fits (s := run) (i := 0) rfl (by decide +kernel)
    exact ⟨by rw [h]; exact k.lane, by rw [h]; exact k.off, by rw [h]; exact k.enabled, by rw [h]; exact fun _ => rfl,
      by rw [h]; rfl⟩
  | 1 => exact reset_fits (by decide +kernel)
  | 2 => exact reset_fits (by decide +kernel)
  | 3 => exact reset_fits (by decide +kernel)

/-- In a stop the frame closes LINK_LOST, and a listed group member is PARKED with ABORTED and released with GROUP_BROKEN
(R51, R52, R124, R128). -/
theorem test_stop_parks_member :
    ∃ t, exec (.enable allStrobes false) framedMember = .next t ∧ t.streams[(0 : StreamId)].frame = none
      ∧ t.streams[(0 : StreamId)].stats.framesTruncated = 1 ∧ t.holding[(2 : EntryId)].report.status = .aborted
      ∧ t.holding[(2 : EntryId)].groupStatus = .groupBroken := ⟨_, rfl, by decide +kernel⟩

theorem witness_WritesWithoutEffect :
    (0b0111#4 : Strobes) ≠ allStrobes ∧ Instr.consumed 0b0111#4 3 ∈ [Instr.enable 0b0111#4 true, .softReset 0b0111#4 true,
        .producer 0b0111#4 3, .consumed 0b0111#4 3, .irqStatus 0b0111#4 3, .irqEnable 0b0111#4 3,
        .registerWrite 4 0b0111#4 3]
    ∧ (inState .resetting).device = .resetting ∧ run.enable = true
    ∧ (inState .starting).device = .starting ∧ (inState .starting).enable = true ∧ (inState .stopping).device = .stopping
    ∧ (inState .faulted).device = .faulted := by decide +kernel

theorem witness_RingCountWrites :
    ((0x0004FFFF#32).extractLsb' 16 8).toNat = (4 : RingId).val ∧ ((0x00000000#32).extractLsb' 16 8).toNat = (0 : RingId).val
    ∧ 4 < ((0x00050000#32).extractLsb' 16 8).toNat ∧ 4 < ((0x00FF0000#32).extractLsb' 16 8).toNat := by decide

theorem witness_RegisterAccess :
    (0x24#32 ∉ [0x04#32, 0x0C#32, 0x10#32, 0x14#32, 0x18#32, 0x1C#32, 0x20#32])
    ∧ 0x28#32 ∉ [0x00#32, 0x04#32, 0x08#32, 0x0C#32, 0x10#32, 0x14#32, 0x18#32, 0x1C#32, 0x20#32, 0x24#32] := by decide

/-! ## Witnesses: rings and the holding list -/

/-- STARTING with the setup read in flight. -/
def starting : State := reads { State.reset with device := .starting, enable := true } .deviceStart

theorem witness_SetupReadCompletes :
    starting.readingFor 0 .deviceStart ∧ starting.device = .starting ∧ readSetup setupRecord = some theSetup
    ∧ (∀ i : StreamId, starting.streams[i].laneEnable = false) ∧ starting.enable = true
    ∧ starting.enableDropped = false ∧ starting.allLanesOff ∧ readSetup (zeros 64) = none ∧ (starting.reads[(0 : Fin Config.readEntries)] = .issued (trans .deviceStart))
    ∧ starting.collected 0 = [] := by decide +kernel

/-- A single beat that is the whole of its read: the read lands with its data, or fails. -/
theorem landsWith_one {s : State} {j : Fin Config.readEntries} (h : s.collected j = []) (d : List Byte) :
    s.landsWith j (lastBeat d) d := by
  refine ⟨rfl, ?_, ?_⟩ <;> rw [h] <;> simp [lastBeat]

theorem failsWith_one (s : State) (j : Fin Config.readEntries) : s.failsWith j badBeat :=
  ⟨rfl, badBeat, by simp, by decide⟩

theorem witness_SetupReadCompletes_beats :
    starting.landsWith 0 (lastBeat setupRecord) setupRecord ∧ starting.landsWith 0 (lastBeat (zeros 64)) (zeros 64)
    ∧ starting.failsWith 0 badBeat :=
  ⟨landsWith_one rfl _, landsWith_one rfl _, failsWith_one _ _⟩

theorem witness_SetupReadCompletes_off :
    (reads { State.reset with device := .starting } .deviceStart).readingFor 0 .deviceStart
    ∧ (reads { State.reset with device := .starting } .deviceStart).enable = false
    ∧ ((reads { State.reset with device := .starting } .deviceStart).readFreed 0).allFree
    ∧ (∀ e : EntryId, (reads { State.reset with device := .starting } .deviceStart).holding[e] = .free)
    ∧ (reads { State.reset with device := .starting } .deviceStart).admin = .idle
    ∧ (∀ i : StreamId, (reads { State.reset with device := .starting } .deviceStart).streams[i] = .reset)
    ∧ (∀ g : GroupId, (reads { State.reset with device := .starting } .deviceStart).groups[g] = .free) := by decide +kernel

/-- ENABLE written 0 and then 1 in STARTING: a valid record still leads to OFF, with STOPPED set (R193, R194). -/
theorem test_enable_dropped_stops :
    ∃ t u v, exec (.enable allStrobes false) starting = .next t ∧ exec (.enable allStrobes true) t = .next u
      ∧ exec (.setupReadResponse 0 (lastBeat setupRecord)) u = .next v ∧ v.device = .off ∧ v.irqStatus = irqStopped :=
  ⟨_, _, _, rfl, rfl, rfl, by decide +kernel, by decide +kernel⟩

/-- `run` with a READY record in the post queue. -/
def posting : State := { run with
  postQueue := [2], holding := run.holding.set 2 { HoldingEntry.free with state := .ready, counted := true } }

/-- `run` with a pending request in ring 1. -/
def fetching : State := { run with rings := run.rings.set 1 { run.rings[(1 : RingId)] with producer := 1 }, fetchRotation := 2 }

theorem witness_FetchGranted :
    (fetching.device = .running ∧ fetching.rings[(1 : RingId)].state = .active
      ∧ fetching.rings[(1 : RingId)].producer ≠ fetching.rings[(1 : RingId)].fetched
      ∧ fetching.rings[(1 : RingId)].inFlight = false ∧ fetching.holding[(2 : EntryId)].state = .free ∧ ringOfEntry 2 = 1
      ∧ (∀ f < (2 : EntryId), ringOfEntry f = 1 → fetching.holding[f].state ≠ .free)
      ∧ (∀ i, ringOfStream i = 1 → fetching.streams[i].prefetch.length < 4)
      ∧ (∀ q : RingId, (q - fetching.fetchRotation).val < (1 - fetching.fetchRotation : RingId).val →
        fetching.mayFetch q = false)
      ∧ fetching.nextRead 0 ∧ 0 = fetching.rings[(1 : RingId)].fetched.toNat % fetching.rings[(1 : RingId)].slots)
    ∧ (∀ r, run.mayFetch r = false) ∧ posting.holding[(2 : EntryId)].state ≠ .free
    ∧ (∀ j : Fin Config.readEntries,
      ({ fetching with reads := Vector.replicate 8 (.issued (trans (.slot 2))) } : State).reads[j] ≠ .free) := by
  decide +kernel

/-- A slot of stream 0 in flight, with a prefetch list. -/
def slotReads (l : List Request) : State := reads (on0 fun x => { x with prefetch := l }) (.slot 2)

theorem witness_SlotJoinsList :
    (slotReads []).readingFor 0 (.slot 2) ∧ ringOfEntry 2 = ringOfStream 0 ∧ (slotReads []).device = .running
    ∧ (slotReads []).beingAborted 0 = false ∧ (slotReads []).rings[ringOfStream 0].state ≠ .halted
    ∧ validateRequest 2 (requestRecord capture) = some capture
    ∧ (slotReads [capture]).streams[(0 : StreamId)].prefetch ≠ [] ∧ (slotReads []).streams[(0 : StreamId)].prefetch = []
    ∧ capture.kind = .capture ∧ capture.group = none := by decide +kernel

/-- The first half of a record collected, its second half the last beat. -/
def halfRead (r : List Byte) : State :=
  { slotReads [] with reads := run.reads.set 0 (.issued { trans (.slot 2) with beats := [⟨r.take 32, .okay, false⟩] }) }

theorem witness_SlotJoinsList_beats :
    (slotReads []).landsWith 0 (lastBeat (requestRecord capture)) (requestRecord capture)
    ∧ (halfRead (requestRecord capture)).landsWith 0 (lastBeat ((requestRecord capture).drop 32)) (requestRecord capture) := by
  refine ⟨landsWith_one rfl _, rfl, ?_, ?_⟩
  · show ∀ x ∈ [(⟨(requestRecord capture).take 32, .okay, false⟩ : Beat)] ++ [lastBeat ((requestRecord capture).drop 32)], x.code = .okay
    simp [lastBeat]
  · show requestRecord capture = ([(⟨(requestRecord capture).take 32, .okay, false⟩ : Beat)]
      ++ [lastBeat ((requestRecord capture).drop 32)]).flatMap (·.data)
    simp [lastBeat, List.take_append_drop]

theorem witness_SlotJoinsList_mark :
    ∃ q, validateRequest 2 (markRecord 7 true) = some q ∧ q.kind = .mark := ⟨readRequest 2 .mark (markRecord 7 true), by decide +kernel, rfl⟩

theorem witness_SlotJoinsList_group :
    validateRequest 2 (requestRecord member) = some member ∧ member.kind = .capture ∧ member.group = some 0
    ∧ (slotReads []).groups[(0 : GroupId)].state = .free
    ∧ (grouped (slotReads []) (group .opened .empty)).groups[(0 : GroupId)] = group .opened .empty
    ∧ (group .opened .empty).mask[(0 : StreamId)] = true ∧ (group .opened .empty).mask[(2 : StreamId)] = false
    ∧ (group .opened .empty).slots[(0 : StreamId)].progress = .empty
    ∧ (group .fixed .empty).state = .fixed ∧ (group .broken .empty).state = .broken
    ∧ (group .fixed ⟨.registered, some member, none⟩).slots[(0 : StreamId)].progress ≠ .empty := by decide +kernel

/-- `s` with an abort of stream 0. -/
def aborting (s : State) : State := executing s fun a => { a with abort := some ⟨0, 0⟩ }

/-- `s` with the ring of stream 0 in a state. -/
def ring0 (s : State) (st : RingState) : State := { s with rings := s.rings.set 1 { s.rings[(1 : RingId)] with state := st } }

theorem witness_SlotFinishes :
    ({ slotReads [] with device := .faulted }).readingFor 0 (.slot 2) ∧ ({ slotReads [] with device := .faulted }).device = .faulted
    ∧ ({ slotReads [] with device := .stopping }).readingFor 0 (.slot 2)
    ∧ ({ slotReads [] with device := .stopping }).device ≠ .faulted
    ∧ (aborting (slotReads [])).readingFor 0 (.slot 2) ∧ (aborting (slotReads [])).beingAborted 0 = true
    ∧ (ring0 (slotReads []) .halted).readingFor 0 (.slot 2) ∧ (ring0 (slotReads []) .halted).rings[ringOfStream 0].state = .halted
    ∧ validateRequest 2 (zeros 64) = none
    ∧ validateRequest 2 (markRecord 7 true) ≠ none ∧ validateRequest 2 (requestRecord (numbered 5)) ≠ none := by decide +kernel

theorem witness_SlotFinishes_beats :
    ({ slotReads [] with device := .faulted }).landsWith 0 (lastBeat (zeros 64)) (zeros 64)
    ∧ ({ slotReads [] with device := .stopping }).landsWith 0 (lastBeat (zeros 64)) (zeros 64)
    ∧ (aborting (slotReads [])).landsWith 0 (lastBeat (zeros 64)) (zeros 64)
    ∧ (ring0 (slotReads []) .halted).landsWith 0 (lastBeat (zeros 64)) (zeros 64)
    ∧ (slotReads []).landsWith 0 (lastBeat (zeros 64)) (zeros 64) :=
  ⟨landsWith_one rfl _, landsWith_one rfl _, landsWith_one rfl _, landsWith_one rfl _, landsWith_one rfl _⟩

theorem witness_SlotReadFails :
    ((slotReads []).readingFor 0 (.slot 2) ∧ (slotReads []).device = .running ∧ ringOfEntry 2 = ringOfStream 0
      ∧ (slotReads []).rings[ringOfStream 0].state = .active)
    ∧ (ring0 (slotReads []) .halted).rings[ringOfStream 0].state = .halted
    ∧ adminReads.readingFor 0 (.slot 0) ∧ ringOfEntry 0 = 0 := by decide +kernel

theorem witness_SlotReadFails_beats : (slotReads []).failsWith 0 badBeat ∧ adminReads.failsWith 0 badBeat :=
  ⟨failsWith_one _ _, failsWith_one _ _⟩

theorem witness_AdminSlotLands :
    (adminReads.adminReading 0 0 ∧ adminReads.device = .running ∧ adminReads.admin.executing = none
      ∧ readAdminOp (zeros 64) = none)
    ∧ ((executing adminReads id).adminReading 0 0 ∧ (executing adminReads id).device = .running
      ∧ (executing adminReads id).admin.executing = some ⟨0, 9, some (.readStats 0 0x40 true)⟩)
    ∧ ({ adminReads with device := .stopping }).adminReading 0 0 ∧ ({ adminReads with device := .faulted }).adminReading 0 0 := by
  decide +kernel

theorem witness_AdminSlotLands_beats :
    adminReads.landsWith 0 (lastBeat (zeros 64)) (zeros 64)
    ∧ (executing adminReads id).landsWith 0 (lastBeat (zeros 64)) (zeros 64) :=
  ⟨landsWith_one rfl _, landsWith_one rfl _⟩

theorem witness_AdminSlotLands_command :
    adminReads.landsWith 0 (lastBeat (adminRecord 9 (.deleteRing 3))) (adminRecord 9 (.deleteRing 3))
    ∧ readAdminOp (adminRecord 9 (.deleteRing 3)) = some (.deleteRing 3) :=
  ⟨landsWith_one rfl _, by decide +kernel⟩

/-- `run` with a command waiting. -/
def waiting (op : Option AdminOp) : State := { run with admin := { run.admin with waiting := some ⟨0, 9, op⟩ } }

theorem witness_AdminSlotLands_start :
    (waiting (some (.deleteRing 0))).admin.executing = none
    ∧ (waiting (some (.deleteRing 0))).admin.waiting = some ⟨0, 9, some (.deleteRing 0)⟩
    ∧ (waiting (some (.deleteRing 0))).device = .running ∧ (waiting none).admin.waiting = some ⟨0, 9, none⟩
    ∧ (executing run id).admin.executing ≠ none ∧ run.admin.waiting = none
    ∧ ({ waiting none with device := .stopping }).device ≠ .running := by decide +kernel

/-- The completion ring of `run` with no space. -/
def ringFull : State := { posting with completion := { posting.completion with post := 4 } }

theorem witness_PostIssuesRecord :
    (posting.device = .running ∧ posting.postQueue = 2 :: []
      ∧ (posting.completion.post - posting.completion.consumed).toNat < posting.completion.slots
      ∧ (∀ q : RequesterId, (q - posting.writeRotation).val < (0 - posting.writeRotation : RequesterId).val →
        posting.requesterReady q = false)
      ∧ posting.nextWrite 0)
    ∧ run.postQueue = [] ∧ ringFull.completion.slots ≤ (ringFull.completion.post - ringFull.completion.consumed).toNat
    ∧ (∀ j : Fin Config.writeEntries,
      ({ posting with writes := Vector.replicate 64 (.issued (trans (.completion 2))) } : State).writes[j] ≠ .free)
    ∧ (({ posting with device := .faulted } : State).device ≠ .running ∧ ({ posting with device := .faulted } : State).device ≠ .stopping)
    ∧ ((2 : RequesterId) - ({ buffered with writeRotation := 2 } : State).writeRotation).val
      < (0 - ({ buffered with writeRotation := 2 } : State).writeRotation : RequesterId).val
    ∧ ({ buffered with writeRotation := 2 } : State).requesterReady 2 = true := by
  decide +kernel

/-- A completion write in flight, for a record that is counted or not. -/
def answered (counted : Bool) (count : Nat) : State :=
  { writes run (.completion 2) with
    coalescingCount := count
    holding := run.holding.set 2 { HoldingEntry.free with state := .posting, counted := counted } }

theorem witness_CompletionAnswered :
    (answered true 1).writingFor 0 (.completion 2) ∧ (answered true 1).device ≠ .resetting
    ∧ (answered true 1).device ≠ .faulted ∧ (answered false 0).holding[(2 : EntryId)].counted = false
    ∧ (answered true 1).holding[(2 : EntryId)].counted = true ∧ (answered true 1).setup = some theSetup
    ∧ theSetup.threshold ≤ (answered true 1).coalescingCount + 1 ∧ (answered true 0).coalescingCount + 1 < theSetup.threshold
    ∧ ({ run with coalescingTimer := some 0 } : State).coalescingTimer = some 0 ∧ run.setup = some theSetup
    ∧ run.coalescingTimer = none := by decide +kernel

theorem witness_CompletionAnswered_lost :
    (writes (inFrame capture prof) (.completion 2)).writingFor 0 (.completion 2)
    ∧ (writes (inFrame capture prof) (.completion 2)).boundTo 0 (frame (some 0)) 0 (bound capture prof)
    ∧ (inFrame capture prof).streams[(0 : StreamId)].lane.state = .run
    ∧ (∀ m : StreamId, m ≠ 0 → (inFrame capture prof).streams[m].lane = .off) :=
  ⟨by decide +kernel, ⟨rfl, rfl, rfl⟩, by decide +kernel, by decide +kernel⟩

/-! ## Witnesses: the Admin Unit -/

theorem witness_CreateAndResumeRing :
    adminReads.adminReading 0 0 ∧ adminReads.device = .running ∧ adminReads.admin.executing = none := by decide +kernel

theorem witness_DeleteRing :
    adminReads.adminReading 0 0 ∧ adminReads.device = .running ∧ adminReads.admin.executing = none
    ∧ adminReads.rings[ringOfStream 1].state = .absent ∧ adminReads.rings[ringOfStream 0].state ≠ .absent
    ∧ ringOfEntry 2 = ringOfStream 0
    ∧ ({ adminReads with holding := adminReads.holding.set 2 { HoldingEntry.free with state := .reserved } } : State).holding[(2 : EntryId)].state ≠ .free
    ∧ (∀ f, ringOfEntry f = ringOfStream 0 → adminReads.holding[f].state = .free)
    ∧ (∀ g : GroupId, adminReads.groups[g].mask[(0 : StreamId)] = true →
      adminReads.groups[g].state ≠ .opened ∧ adminReads.groups[g].state ≠ .fixed)
    ∧ adminReads.admin.waiting = none := by decide +kernel

/-- An admin slot in flight and stream 1 with a profile that reserves every slot but two. -/
def crowded : State := adminReads.onStream 1 fun x => { x with active := some { pairedProf with quota := 126 } }

/-- PAIRED fields with a quota. -/
def pairedFields (quota : Byte) : ProfileFields := { fields with layout := 1, maxLag := 1, quota := quota }

theorem witness_ConfigureStream :
    profileOf { fields with knee := 0 } = none ∧ profileOf fields = some prof
    ∧ profileOf (pairedFields 2) = some pairedProf ∧ profileOf (pairedFields 3) = some { pairedProf with quota := 3 }
    ∧ crowded.adminReading 0 0 ∧ crowded.device = .running ∧ crowded.admin.executing = none
    ∧ 128 < max (quotaOf crowded.streams[(0 : StreamId)].active) (max 3 (crowded.heldCount 0)) + crowded.otherReservations 0
    ∧ max (quotaOf crowded.streams[(0 : StreamId)].active) (max 2 (crowded.heldCount 0)) + crowded.otherReservations 0 ≤ 128
    ∧ crowded.streams[(0 : StreamId)].laneEnable = true
    ∧ crowded.streams[(1 : StreamId)].laneEnable = false ∧ crowded.streams[(1 : StreamId)].lane.state = .off
    ∧ (reads (lane0 ⟨.search, 5, 0, .none⟩) (.slot 0)).streams[(0 : StreamId)].lane.state ≠ .run
    ∧ (reads (lane0 ⟨.search, 5, 0, .none⟩) (.slot 0)).streams[(0 : StreamId)].laneEnable = true := by decide +kernel

theorem witness_ConfigureStream_off :
    (adminReads.streams[(0 : StreamId)].laneEnable = true ∧ adminReads.streams[(0 : StreamId)].lane.state = .run
      ∧ adminReads.streams[(0 : StreamId)].frame = none ∧ max (quotaOf adminReads.streams[(0 : StreamId)].active)
        (max prof.quota (adminReads.heldCount 0)) + adminReads.otherReservations 0 ≤ 128)
    ∧ (reads unboundFrame (.slot 0)).adminReading 0 0
    ∧ (reads unboundFrame (.slot 0)).streams[(0 : StreamId)].frame = some (frame none)
    ∧ (reads (merging [held 2]) (.slot 0)).adminReading 0 0
    ∧ (reads (merging [held 2]) (.slot 0)).boundTo 0 (frame (some 0)) 0 (bound (assembled .merge) pairedProf)
    ∧ (reads (merging [held 2]) (.slot 0)).streams[(0 : StreamId)].lane.state = .run :=
  ⟨by decide +kernel, by decide +kernel, by decide +kernel, by decide +kernel, ⟨rfl, rfl, rfl⟩, by decide +kernel⟩

theorem witness_LoadDefects :
    adminReads.adminReading 0 0 ∧ adminReads.device = .running ∧ adminReads.admin.executing = none := witness_CreateAndResumeRing

/-- `run` with a load in execution. -/
def loading (l : Load) : State := executing run fun a => { a with load := some l }

theorem witness_DefectBurstIssue :
    ((loading { load with bursts := 5, issued := 3, outstanding := 3 }).admin.load
        = some { load with bursts := 5, issued := 3, outstanding := 3 }
      ∧ (3 < 5 ∧ 3 < 4) ∧ load.failed = false ∧ (loading load).device = .running ∧ (loading load).nextRead 0)
    ∧ (∀ l, run.admin.load = some l → l.bursts ≤ l.issued ∨ 4 ≤ l.outstanding ∨ l.failed = true)
    ∧ ({ loading load with device := .faulted }).device ≠ .running
    ∧ (∀ j : Fin Config.readEntries,
      ({ loading load with reads := Vector.replicate 8 (.issued (trans (.slot 2))) } : State).reads[j] ≠ .free) :=
  ⟨by decide +kernel, nofun, by decide, by decide +kernel⟩

theorem witness_DefectBurstAnswered :
    (reads (loading { load with issued := 1, outstanding := 1 }) (.load 0)).readingFor 0 (.load 0)
    ∧ (loading load).device ≠ .resetting
    ∧ (loading { load with issued := 1, outstanding := 1 }).admin.load = some { load with issued := 1, outstanding := 1 }
    ∧ (loading load).admin.executing = some ⟨0, 9, some (.readStats 0 0x40 true)⟩
    ∧ load.failed = false ∧ load.landed + 1 = load.bursts ∧ ({ load with bursts := 2 } : Load).landed + 1 ≠ 2
    ∧ ({ load with failed := true } : Load).failed = true := by decide +kernel

theorem witness_DefectBurstAnswered_beats :
    (reads (loading { load with issued := 1, outstanding := 1 }) (.load 0)).landsWith 0 (lastBeat (zeros 256)) (zeros 256)
    ∧ (reads (loading { load with issued := 1, outstanding := 1 }) (.load 0)).failsWith 0 badBeat
    ∧ readDefects (leBytes 4 (20 + 65536 * 9) ++ zeros 252) 1 1 = some [⟨20, 9, .average⟩] :=
  ⟨landsWith_one rfl _, failsWith_one _ _, by decide +kernel⟩

/-- A short burst does not move the one behind it: its bytes stand from offset 256 on (R165). -/
theorem test_short_burst_keeps_offsets :
    byteAt ({ load with bursts := 2, buffer := [(1, [7]), (0, [5])] } : Load).bytes 256 = 7
    ∧ ({ load with bursts := 2, buffer := [(1, [7]), (0, [5])] } : Load).buffer.find? (fun b => b.1 = 1) = some (1, [7]) := by
  decide +kernel

theorem witness_AbortStream :
    adminReads.adminReading 0 0 ∧ adminReads.device = .running ∧ adminReads.admin.executing = none
    ∧ adminReads.rings[ringOfStream 1].state = .absent ∧ adminReads.rings[ringOfStream 0].state ≠ .absent
    ∧ adminReads.admin.waiting = none
    ∧ (aborting run).admin.abort = some ⟨0, 0⟩ ∧ (aborting run).admin.executing = some ⟨0, 9, some (.readStats 0 0x40 true)⟩
    ∧ (∀ c : ContextId, (aborting run).streams[(0 : StreamId)].contexts[c] = none)
    ∧ (aborting (inFrame capture prof)).streams[(0 : StreamId)].contexts[(0 : ContextId)] ≠ none := by decide +kernel

theorem witness_AbortStream_listed :
    listed.adminReading 0 0 ∧ listed.admin.executing = none ∧ listed.device = .running
    ∧ listed.streams[(0 : StreamId)].prefetch.length = 2 ∧ listed.rings[ringOfStream 0].state ≠ .absent := by decide +kernel

/-- An admin slot in flight and a group's registered member alone in its list. -/
def listedMember : State :=
  grouped (adminReads.onStream 0 fun x => { x with prefetch := [member] }) (group .opened ⟨.registered, some member, none⟩)

theorem witness_AbortStream_member :
    listedMember.adminReading 0 0 ∧ listedMember.admin.executing = none ∧ listedMember.device = .running
    ∧ listedMember.rings[ringOfStream 0].state ≠ .absent := by decide +kernel

theorem witness_OpenAndCloseGroup :
    adminReads.adminReading 0 0 ∧ adminReads.device = .running ∧ adminReads.admin.executing = none
    ∧ listedMember.adminReading 0 0 ∧ listedMember.groups[(0 : GroupId)].state = .opened := by decide +kernel

/-- The snapshot of a READ_STATS. -/
def snap : Snapshot := ⟨0, 0x40, true, .zero, 0, .disabled, false⟩

/-- `run` with a READ_STATS in execution. -/
def snapped (issued : Bool) : State := executing run fun a => { a with snapshot := some { snap with issued := issued } }

theorem witness_ReadStats :
    (adminReads.adminReading 0 0 ∧ adminReads.device = .running ∧ adminReads.admin.executing = none)
    ∧ ((snapped false).admin.snapshot = some snap ∧ (snapped false).admin.executing = some ⟨0, 9, some (.readStats 0 0x40 true)⟩
      ∧ snap.issued = false ∧ (snapped false).device = .running ∧ (snapped false).nextWrite 0
      ∧ (∀ q : RequesterId, (q - (snapped false).writeRotation).val < (1 - (snapped false).writeRotation : RequesterId).val →
        (snapped false).requesterReady q = false))
    ∧ ({ snap with issued := true } : Snapshot).issued = true
    ∧ (writes (snapped true) .statistics).writingFor 0 .statistics ∧ (snapped true).device ≠ .resetting := by decide +kernel

/-- A capture that nothing keeps from flushing, whatever it holds. -/
theorem merging_flushes (l : List HeldLine) : (merging l).flushesAtOnce 0 0 (bound (assembled .merge) pairedProf) :=
  ⟨rfl, rfl, nofun, fun d m h e => by
    match d with
    | 0 => exact absurd rfl h
    | 1 => exact absurd e nofun⟩

theorem merging_bound (l : List HeldLine) : (merging l).boundTo 0 (frame (some 0)) 0 (bound (assembled .merge) pairedProf) :=
  ⟨rfl, rfl, rfl⟩

/-- The capture in a frame of `merging`, and another of its stream with its flush pending. -/
def twoFlushes : State := (merging [held 2]).onStream 0 fun x => { x with
  contexts := x.contexts.set 1 (some { bound (assembled .merge) pairedProf with phase := .flushing, flushPending := true }) }

theorem twoFlushes_bound : twoFlushes.boundTo 0 (frame (some 0)) 0 (bound (assembled .merge) pairedProf) := ⟨rfl, rfl, rfl⟩

/-! ## Witnesses: lanes -/

theorem witness_WordsOutsideRun :
    (Instr.illegalWord 0 none).wellFormed = true ∧ (Instr.illegalWord 0 (some 0x1234)).wellFormed = true
    ∧ (lane0 .off).streams[(0 : StreamId)].lane.state = .off
    ∧ (lane0 ⟨.search, 63, 0, .none⟩).streams[(0 : StreamId)].lane = ⟨.search, 63, 0, .none⟩
    ∧ (lane0 ⟨.search, 62, 0, .none⟩).streams[(0 : StreamId)].lane.state = .search
    ∧ (lane0 ⟨.aligned, 0, 0, .none⟩).streams[(0 : StreamId)].lane.state = .aligned := by decide +kernel

/-- A packet of one pixel whose check word is awaited, or its pixel. -/
def payload (remaining : Nat) : Payload := ⟨5, .single, 1, remaining, [], payloadStart⟩

theorem witness_WordsInRun :
    run.streams[(0 : StreamId)].lane = ⟨.run, 0, 0, .gap⟩
    ∧ (lane0 ⟨.run, 0, 0, .header [1, 2]⟩).streams[(0 : StreamId)].lane.phase = .header [1, 2] ∧ [1, 2].length < 3
    ∧ (lane0 ⟨.run, 0, 0, .payload (payload 1)⟩).streams[(0 : StreamId)].lane.phase = .payload (payload 1)
    ∧ 0 < (payload 1).remaining
    ∧ (lane0 ⟨.run, 0, 0, .discard⟩).streams[(0 : StreamId)].lane.phase = .discard
    ∧ run.streams[(0 : StreamId)].frame = none
    ∧ (on0 fun x => { x with frame := some (frame none) }).streams[(0 : StreamId)].frame = some (frame none)
    ∧ (frame none).bound = none ∧ (merging [held 2]).streams[(0 : StreamId)].lane.state = .run := by decide +kernel

theorem witness_WordsInRun_bound :
    (merging [held 2]).boundTo 0 (frame (some 0)) 0 (bound (assembled .merge) pairedProf)
    ∧ (merging [held 2]).flushesAtOnce 0 0 (bound (assembled .merge) pairedProf)
    ∧ twoFlushes.boundTo 0 (frame (some 0)) 0 (bound (assembled .merge) pairedProf)
    ∧ twoFlushes.streams[(0 : StreamId)].lane.state = .run
    ∧ twoFlushes.streams[(0 : StreamId)].contexts[(1 : ContextId)]
      = some { bound (assembled .merge) pairedProf with phase := .flushing, flushPending := true } :=
  ⟨merging_bound _, merging_flushes _, twoFlushes_bound, by decide +kernel, by decide +kernel⟩

/-- A capture in a frame whose lane has three header errors. -/
def failing (s : State) : State := s.onStream 0 fun x => { x with lane := ⟨.run, 0, 3, .gap⟩ }

theorem witness_HeaderErrors_frame :
    (failing unboundFrame).streams[(0 : StreamId)].lane = ⟨.run, 0, 3, .gap⟩
    ∧ (failing unboundFrame).streams[(0 : StreamId)].frame = some (frame none)
    ∧ (failing (merging [held 2])).streams[(0 : StreamId)].lane = ⟨.run, 0, 3, .gap⟩
    ∧ (failing (merging [held 2])).boundTo 0 (frame (some 0)) 0 (bound (assembled .merge) pairedProf) :=
  ⟨by decide +kernel, by decide +kernel, by decide +kernel, ⟨rfl, rfl, rfl⟩⟩

theorem witness_HeaderErrors :
    (lane0 ⟨.run, 0, 2, .gap⟩).streams[(0 : StreamId)].lane = ⟨.run, 0, 2, .gap⟩
    ∧ (Instr.illegalWord 0 none).wellFormed = true
    ∧ (lane0 ⟨.run, 0, 3, .header [1]⟩).streams[(0 : StreamId)].lane.phase = .header [1]
    ∧ judgeHeader 0x00A1 7 3 0x22 = none ∧ (2 < 3 ∧ 3 ≤ 3)
    ∧ (lane0 ⟨.run, 0, 3, .header [1]⟩).streams[(0 : StreamId)].frame = none := by decide +kernel

theorem witness_PacketsDelivered :
    run.linked 0 prof ∧ (lane0 ⟨.run, 0, 0, .header [0x00A1, 7, 3]⟩).linked 0 prof
    ∧ judgeHeader 0x00A1 7 3 0x21 = some (.frameStart 7 3) ∧ judgeHeader 0x00A3 7 20 0x80 = some (.frameEnd 7 20)
    ∧ judgeHeader 0x00A2 0x4005 8 0xFB = some (.line 5 .single 8)
    ∧ (lane0 ⟨.run, 0, 0, .payload (payload 0)⟩).streams[(0 : StreamId)].lane.phase = .payload (payload 0)
    ∧ (payload 0).remaining = 0 := by decide +kernel

/-! ## Witnesses: frames and lines -/

theorem witness_FrameStartOpens :
    run.linked 0 prof ∧ run.streams[(0 : StreamId)].frame = none ∧ run.streams[(0 : StreamId)].prefetch = []
    ∧ run.streams[(0 : StreamId)].staged = none ∧ prof.id = 3 ∧ prof.id ≠ 4
    ∧ (on0 fun x => { x with staged := some { prof with id := 4 } }).streams[(0 : StreamId)].staged = some { prof with id := 4 }
    ∧ ({ prof with id := 4 } : Profile).id = 4
    ∧ (on0 fun x => { x with staged := some { prof with id := 4 }, prefetch := [capture] }).linked 0 prof
    ∧ (on0 fun x => { x with staged := some { prof with id := 4 }, prefetch := [capture] }).streams[(0 : StreamId)].staged
      = some { prof with id := 4 } := by decide +kernel

/-- A foreign frame is offered to nobody: the request at the head of the list stays (R31). -/
theorem test_foreign_offers_nothing :
    ∃ t, exec (.frameStart 0 5 4) (on0 fun x => { x with prefetch := [capture] }) = .next t
      ∧ t.streams[(0 : StreamId)].prefetch = [capture] ∧ t.streams[(0 : StreamId)].stats.framesForeign = 1 :=
  ⟨_, rfl, by decide +kernel⟩

theorem witness_FrameStartOpens_restart :
    (unboundFrame.linked 0 prof ∧ unboundFrame.streams[(0 : StreamId)].frame = some (frame none) ∧ (frame none).bound = none)
    ∧ (merging [held 2]).linked 0 pairedProf
    ∧ (merging [held 2]).boundTo 0 (frame (some 0)) 0 (bound (assembled .merge) pairedProf)
    ∧ (merging [held 2]).flushesAtOnce 0 0 (bound (assembled .merge) pairedProf)
    ∧ twoFlushes.linked 0 pairedProf ∧ twoFlushes.boundTo 0 (frame (some 0)) 0 (bound (assembled .merge) pairedProf)
    ∧ run.streams[(1 : StreamId)].active = none
    ∧ (on0 fun x => { x with laneEnable := false }).streams[(0 : StreamId)].laneEnable = false
    ∧ (lane0 ⟨.aligned, 0, 0, .none⟩).streams[(0 : StreamId)].lane.state ≠ .run :=
  ⟨by decide +kernel, by decide +kernel, merging_bound _, merging_flushes _, by decide +kernel, twoFlushes_bound,
    by decide +kernel, by decide +kernel, by decide +kernel⟩

/-- Stream 0 with one request waiting. -/
def offered (q : Request) : State := on0 fun x => { x with prefetch := [q] }

theorem witness_FrameStartOffers :
    (offered capture).linked 0 prof ∧ (offered capture).streams[(0 : StreamId)].frame = none
    ∧ (offered capture).streams[(0 : StreamId)].staged = none ∧ (offered capture).streams[(0 : StreamId)].prefetch = [capture]
    ∧ capture.group = none ∧ capture.suits prof = true ∧ capture.selector = .next
    ∧ (offered capture).streams[(0 : StreamId)].contexts[(0 : ContextId)] = none
    ∧ (offered capture).streams[(0 : StreamId)].settle = 0
    ∧ (numbered 4).suits prof = true ∧ (numbered 4).selector = .numbered ∧ frameOrder 5 4 = .ahead
    ∧ frameOrder 5 6 = .behind ∧ frameOrder 5 (5 + 32768) = .behind ∧ (numbered 5).number = 5
    ∧ (∀ c : ContextId, ((offered capture).onStream 0 fun x => { x with
        contexts := Vector.replicate 2 (some (bound capture prof)) }).streams[(0 : StreamId)].contexts[c] ≠ none)
    ∧ 0 < ((offered capture).onStream 0 fun x => { x with settle := 1 }).streams[(0 : StreamId)].settle
    ∧ capture.acceptUnsettled = false ∧ (assembled .merge).suits prof = false ∧ (assembled .merge).group = none
    ∧ (on0 fun x => { x with prefetch := [assembled .merge, capture] }).streams[(0 : StreamId)].prefetch
      = assembled .merge :: [capture]
    ∧ (on0 fun x => { x with prefetch := [numbered 4, capture] }).streams[(0 : StreamId)].prefetch = numbered 4 :: [capture]
    ∧ (on0 fun x => { x with prefetch := [capture, { capture with entry := 3 }] }).streams[(0 : StreamId)].prefetch
      = capture :: [{ capture with entry := 3 }]
    ∧ (numbered 5).number = 5 ∧ (numbered 4).group = none ∧ capture.kind = .capture
    ∧ (on0 fun x => { x with prefetch := [capture], staged := some { prof with id := 4 } }).streams[(0 : StreamId)].staged
      = some { prof with id := 4 } ∧ ({ prof with id := 4 } : Profile).id ≠ prof.id := by decide +kernel

/-- A head behind another: a MARK, a CAPTURE of no group, and a member in each of the group's states. -/
theorem witness_DeadlineExpires_heads :
    mark.kind = .mark ∧ capture.kind = .capture ∧ capture.group = none ∧ member.kind = .capture ∧ member.group = some 0
    ∧ run.groups[(0 : GroupId)].state = .free ∧ (group .opened .empty).state = .opened
    ∧ (group .opened .empty).mask[(0 : StreamId)] = true ∧ (group .opened .empty).slots[(0 : StreamId)].progress = .empty
    ∧ (group .fixed .empty).state = .fixed ∧ (group .broken .empty).state = .broken
    ∧ (group .opened .empty).mask[(3 : StreamId)] = false
    ∧ (group .opened ⟨.bound, some member, none⟩).slots[(0 : StreamId)].progress ≠ .empty := by decide

/-- A registered member offered frames, its group at a number. -/
def claiming (n : Option Half) : State :=
  grouped (offered member) { group (if n.isNone then .opened else .fixed) ⟨.registered, some member, none⟩ with number := n }

theorem witness_GroupClaims :
    (claiming none).linked 0 prof ∧ (claiming none).streams[(0 : StreamId)].frame = none
    ∧ (claiming none).streams[(0 : StreamId)].staged = none ∧ (claiming none).streams[(0 : StreamId)].prefetch = [member]
    ∧ member.group = some 0 ∧ member.suits prof = true ∧ (claiming none).groups[(0 : GroupId)].state = .opened
    ∧ (claiming none).groups[(0 : GroupId)].slots[(0 : StreamId)] = ⟨.registered, some member, none⟩
    ∧ (claiming none).groups[(0 : GroupId)].number = none
    ∧ (claiming none).streams[(0 : StreamId)].contexts[(0 : ContextId)] = none
    ∧ (claiming none).streams[(0 : StreamId)].settle = 0
    ∧ (claiming (some 5)).groups[(0 : GroupId)].state = .fixed ∧ (claiming (some 5)).groups[(0 : GroupId)].number = some 5
    ∧ frameOrder 4 5 = .behind ∧ frameOrder 6 5 = .ahead
    ∧ (∀ k : StreamId, k ≠ 0 → (claiming (some 5)).groups[(0 : GroupId)].slots[k].progress ≠ .registered)
    ∧ 0 < ((claiming (some 5)).onStream 0 fun x => { x with settle := 1 }).streams[(0 : StreamId)].settle
    ∧ member.acceptUnsettled = false := by decide +kernel

/-- A registered member that does not suit the profile. -/
def unfit : Request := { member with assembly := .merge }

theorem witness_GroupClaims_unfit :
    (grouped (offered unfit) (group .opened ⟨.registered, some unfit, none⟩)).linked 0 prof
    ∧ (grouped (offered unfit) (group .opened ⟨.registered, some unfit, none⟩)).streams[(0 : StreamId)].prefetch = [unfit]
    ∧ unfit.group = some 0 ∧ unfit.suits prof = false
    ∧ (grouped (offered unfit) (group .opened ⟨.registered, some unfit, none⟩)).groups[(0 : GroupId)].slots[(0 : StreamId)]
      = ⟨.registered, some unfit, none⟩
    ∧ (∃ i : StreamId, (group .opened .empty).mask[i] = true ∧ ((group .opened .empty).slots[i].progress = .empty
      ∨ (group .opened .empty).slots[i].progress = .registered))
    ∧ (∀ i : StreamId, (gathered .fixed .bound).mask[i] = true → (gathered .fixed .bound).slots[i].progress = .bound
      ∨ (gathered .fixed .bound).slots[i].progress = .finished)
    ∧ (on0 fun x => { x with prefetch := [member, mark], staged := some { prof with id := 4 } }).streams[(0 : StreamId)].prefetch
      = member :: [mark] := by decide +kernel

theorem witness_LineArrives :
    (on0 fun x => { x with frame := some (frame none) }).linked 0 prof
    ∧ (on0 fun x => { x with frame := some (frame none) }).streams[(0 : StreamId)].frame = some (frame none)
    ∧ exposureFits .single prof.layout = true ∧ 99 < prof.frameHeight ∧ (frame none).last .single = none
    ∧ (frame none).bound = none ∧ prof.frameHeight ≤ 100 ∧ exposureFits .long prof.layout = false
    ∧ ({ frame none with lastSingle := some 7 } : Frame).last .single = some 7
    ∧ run.streams[(0 : StreamId)].frame = none ∧ run.streams[(1 : StreamId)].active = none
    ∧ (lane0 ⟨.aligned, 0, 0, .none⟩).streams[(0 : StreamId)].lane.state ≠ .run := by decide +kernel

/-- A buffer with no room. -/
def full (s : State) : State := s.onStream 0 fun x => { x with buffer := List.replicate 8 outLine }

theorem witness_LineStored :
    (inFrame capture prof).linked 0 prof ∧ (inFrame capture prof).streams[(0 : StreamId)].frame = some (frame (some 0))
    ∧ (frame (some 0)).accepts prof 2 .single = true ∧ (frame (some 0)).bound = some 0
    ∧ (inFrame capture prof).streams[(0 : StreamId)].contexts[(0 : ContextId)] = some (bound capture prof)
    ∧ (bound capture prof).request.assembly ≠ .merge
    ∧ capture.top ≤ 2 ∧ 2 < capture.top + capture.rows ∧ 5 < capture.top + capture.rows ∧ capture.top + capture.rows ≤ 6
    ∧ 1 < capture.top ∧ (bound capture prof).causes.writeFault = false ∧ (bound capture prof).causes.aborted = false
    ∧ (inFrame capture prof).streams[(0 : StreamId)].buffer.length < 8
    ∧ 8 ≤ (full (inFrame capture prof)).streams[(0 : StreamId)].buffer.length
    ∧ ({ bound capture prof with causes := ⟨true, false, false, false⟩ } : Capture).causes.writeFault = true := by
  decide +kernel

theorem witness_LineStored_split :
    (inFrame (assembled .split) pairedProf).linked 0 pairedProf ∧ (frame (some 0)).accepts pairedProf 2 .short = true
    ∧ (bound (assembled .split) pairedProf).request.assembly ≠ .merge
    ∧ (merging []).linked 0 pairedProf ∧ (frame (some 0)).accepts pairedProf 1 .short = true
    ∧ (merging []).streams[(0 : StreamId)].contexts[(0 : ContextId)] = some (bound (assembled .merge) pairedProf)
    ∧ 1 < (assembled .merge).top := by decide +kernel

theorem witness_MergeLines_long :
    (merging []).linked 0 pairedProf ∧ (merging []).streams[(0 : StreamId)].frame = some (frame (some 0))
    ∧ (frame (some 0)).accepts pairedProf 2 .long = true ∧ (frame (some 0)).bound = some 0
    ∧ (merging []).streams[(0 : StreamId)].contexts[(0 : ContextId)] = some (bound (assembled .merge) pairedProf)
    ∧ (bound (assembled .merge) pairedProf).request.assembly = .merge ∧ (assembled .merge).top ≤ 2
    ∧ 5 < (assembled .merge).top + (assembled .merge).rows
    ∧ (bound (assembled .merge) pairedProf).causes.writeFault = false
    ∧ (bound (assembled .merge) pairedProf).causes.aborted = false
    ∧ (bound (assembled .merge) pairedProf).shortHigh = none ∧ (merging [held 2]).heldCount 0 < pairedProf.quota
    ∧ ({ bound (assembled .merge) pairedProf with shortHigh := some 4 } : Capture).shortHigh = some 4
    ∧ pairedProf.quota ≤ (merging [held 2, held 3]).heldCount 0
    ∧ (merging [held 2, held 3]).pairing.find? (fun l => decide (l.stream = 0)) = some (held 2) ∧ (held 2).context = 0
    ∧ (bound (assembled .merge) pairedProf).flushPending = false
    ∧ (merging [held 2, held 3]).streams[(0 : StreamId)].buffer.length < 8
    ∧ 8 ≤ (full (merging [held 2, held 3])).streams[(0 : StreamId)].buffer.length := by decide +kernel

/-- A full quota whose oldest held line is the other capture's. -/
theorem witness_MergeLines_other :
    pairedProf.quota ≤ ({ twoFlushes with pairing := [{ held 2 with context := 1 }, held 3] } : State).heldCount 0
    ∧ twoFlushes.streams[(0 : StreamId)].buffer.length < 8
    ∧ ({ twoFlushes with pairing := [{ held 2 with context := 1 }, held 3] } : State).pairing.find?
      (fun l => decide (l.stream = 0)) = some { held 2 with context := 1 }
    ∧ twoFlushes.streams[(0 : StreamId)].contexts[(1 : ContextId)]
      = some { bound (assembled .merge) pairedProf with phase := .flushing, flushPending := true }
    ∧ (frame (some 0)).accepts pairedProf 5 .long = true := by decide +kernel

theorem witness_MergeLines_short :
    (frame (some 0)).accepts pairedProf 3 .short = true
    ∧ (merging [held 2, held 3]).pairing.find? (fun l => l.ownedBy 0 0 && l.index == 3) = some (held 3)
    ∧ (merging [held 2]).pairing.find? (fun l => l.ownedBy 0 0 && l.index == 3) = none
    ∧ (bound (assembled .merge) pairedProf).watermark = none ∧ (merging [held 2]).streams[(0 : StreamId)].buffer.length < 8
    ∧ ({ bound (assembled .merge) pairedProf with watermark := some 3 } : Capture).watermark = some 3
    ∧ 8 ≤ (full (merging [held 3])).streams[(0 : StreamId)].buffer.length
    ∧ (full (merging [held 3])).pairing.find? (fun l => l.ownedBy 0 0 && l.index == 3) = some (held 3)
    ∧ (full (merging [])).pairing.find? (fun l => l.ownedBy 0 0 && l.index == 3) = none := by decide +kernel

theorem witness_PixelValues :
    ([10, 20, 30, 40, 50] : List Pixel)[2]? = some 30 ∧ [⟨20, 2, .average⟩].find? (fun b : DefectEntry => b.row == 20 && b.column == 2)
        = some ⟨20, 2, .average⟩
    ∧ 2 ≤ 2 ∧ ([10, 20, 30, 40, 50] : List Pixel)[2 - 2]? = some 10 ∧ ([10, 20, 30, 40, 50] : List Pixel)[2 + 2]? = some 50
    ∧ ([10, 20, 30, 40, 50] : List Pixel).length ≤ 3 + 2 ∧ ([10, 20, 30] : List Pixel)[1 + 2]? = none
    ∧ (∀ b ∈ ([⟨20, 2, .average⟩] : List DefectEntry), ¬(b.row = 20 ∧ b.column = 3))
    ∧ (bound { capture with subtract := true } { prof with referenceRows := 2 }).request.subtract = true
    ∧ (1 < 2 ∧ 2 ≤ 2) ∧ (bound capture prof).request.subtract = false
    ∧ (bound capture prof).blacks.of .single = ⟨0, 0, none⟩ ∧ 3248 / 32 < 65536 := by decide

theorem witness_RowBytes :
    ([7, 9] : List Pixel)[0]? = some 7 ∧ ([7, 9] : List Pixel).length % 2 = 0 ∧ 0 = 2 * 0
    ∧ ([7, 9] : List Pixel)[0 + 1]? = some 9 := by decide

theorem witness_FrameCloses :
    (on0 fun x => { x with frame := some (frame none), gapTimer := some 5000 }).linked 0 prof
    ∧ (frame none).bound = none ∧ (6 : Half) ≠ (frame none).number
    ∧ prof.gapTimeout * 1000 ≤ ((10000 : Word) - 5000).toNat ∧ ((10000 : Word) - 5001).toNat < prof.gapTimeout * 1000
    ∧ (inFrame capture prof).linked 0 prof ∧ (inFrame capture prof).streams[(0 : StreamId)].frame = some (frame (some 0))
    ∧ (inFrame capture prof).streams[(0 : StreamId)].contexts[(0 : ContextId)] = some (bound capture prof)
    ∧ (bound capture prof).request.assembly = .plain ∧ (inFrame capture prof).pairing = []
    ∧ (bound capture prof).flushPending = false
    ∧ (inFrame capture prof).streams[(0 : StreamId)].gapTimer = some 0 := by decide +kernel

theorem witness_FrameCloses_flush :
    (merging [held 2, held 3]).linked 0 pairedProf
    ∧ (merging [held 2, held 3]).boundTo 0 (frame (some 0)) 0 (bound (assembled .merge) pairedProf)
    ∧ (merging [held 2, held 3]).flushesAtOnce 0 0 (bound (assembled .merge) pairedProf)
    ∧ (merging [held 2, held 3]).streams[(0 : StreamId)].gapTimer = some 0
    ∧ pairedProf.gapTimeout * 1000 ≤ ((10000 : Word) - 0).toNat
    ∧ twoFlushes.linked 0 pairedProf ∧ twoFlushes.boundTo 0 (frame (some 0)) 0 (bound (assembled .merge) pairedProf)
    ∧ twoFlushes.streams[(0 : StreamId)].gapTimer = some 0
    ∧ twoFlushes.streams[(0 : StreamId)].contexts[(1 : ContextId)]
      = some { bound (assembled .merge) pairedProf with phase := .flushing, flushPending := true }
    ∧ run.linked 0 prof ∧ run.streams[(0 : StreamId)].frame = none :=
  ⟨by decide +kernel, merging_bound _, merging_flushes _, by decide +kernel, by decide, by decide +kernel, twoFlushes_bound,
    by decide +kernel, by decide +kernel, by decide +kernel, by decide +kernel⟩

theorem witness_FrameCloses_split :
    (inFrame (assembled .split) pairedProf).linked 0 pairedProf
    ∧ (inFrame (assembled .split) pairedProf).boundTo 0 (frame (some 0)) 0 (bound (assembled .split) pairedProf)
    ∧ (inFrame (assembled .split) pairedProf).flushesAtOnce 0 0 (bound (assembled .split) pairedProf) :=
  ⟨by decide +kernel, ⟨rfl, rfl, rfl⟩, rfl, rfl, fun _ => rfl, fun d m h e => by
    match d with
    | 0 => exact absurd rfl h
    | 1 => exact absurd e nofun⟩

/-- A MERGE capture whose flush is pending. -/
def flushing : Capture := { bound (assembled .merge) pairedProf with phase := .flushing, flushPending := true }

/-! ## What stays apart within one event -/

/-- Two members of one group in a list, the first not fit for the profile: its group breaks and, with no member bound,
is FREE at once (R127), so that the second finds it FREE and is INVALID (R117). -/
theorem test_group_free_at_once :
    ∃ t, exec (.frameStart 0 5 3) { grouped (on0 fun x => { x with prefetch := [unfit, { member with entry := 3 }] })
        (group .opened ⟨.registered, some unfit, none⟩) with timeBase := 0 } = .next t
      ∧ t.holding[(3 : EntryId)].report.status = .invalid ∧ t.groups[(0 : GroupId)].state = .free :=
  ⟨_, rfl, by decide +kernel, by decide +kernel⟩

/-- A PLAIN capture closes with room in the buffer: the held line of another capture, its flush pending, stays (R106). -/
theorem test_plain_close_flushes_no_other :
    ∃ t, exec (.frameEnd 0 5 10) { inFrame capture prof with
        streams := (inFrame capture prof).streams.set 0 { (inFrame capture prof).streams[(0 : StreamId)] with
          contexts := #v[some (bound capture prof), some flushing] }
        pairing := [{ held 2 with context := 1 }] } = .next t
      ∧ t.pairing = [{ held 2 with context := 1 }] ∧ t.streams[(0 : StreamId)].frame = none :=
  ⟨_, rfl, by decide +kernel, by decide +kernel⟩

/-- A read with an error in its first beat fails the slot, whatever its last beat says (R183, R142). -/
theorem test_error_beat_fails :
    ∃ t, exec (.slotReadFails 0 (lastBeat (zeros 32))) { slotReads [] with
        reads := run.reads.set 0 (.issued { trans (.slot 2) with beats := [⟨zeros 32, .error .slverr, false⟩] }) } = .next t
      ∧ t.holding[(2 : EntryId)].report.status = .fetchFault ∧ t.rings[(1 : RingId)].state = .halted :=
  ⟨_, rfl, by decide +kernel, by decide +kernel⟩

/-- A record in two beats is the record (R183): its slot joins the prefetch list. -/
theorem test_beats_joined :
    ∃ t, exec (.slotReadLands 0 (lastBeat ((requestRecord capture).drop 32))) (halfRead (requestRecord capture)) = .next t
      ∧ t.streams[(0 : StreamId)].prefetch = [capture] := ⟨_, rfl, by decide +kernel⟩

/-! ## Witnesses: captures and groups -/

theorem witness_DeadlineExpires :
    (on0 fun x => { x with prefetch := [capture, capture], deadline := some 9000 }).streams[(0 : StreamId)].deadline = some 9000
    ∧ (on0 fun x => { x with prefetch := [capture, capture], deadline := some 9000 }).streams[(0 : StreamId)].prefetch
      = capture :: [capture]
    ∧ capture.deadline * 1000 ≤ ((10000 : Word) - 9000).toNat ∧ ((10000 : Word) - 9001).toNat < capture.deadline * 1000
    ∧ capture.group = none ∧ capture.kind = .capture := by decide +kernel

/-- The member of `listedMember` with its deadline timer running. -/
theorem witness_DeadlineExpires_member :
    (listedMember.onStream 0 fun x => { x with deadline := some 9000 }).streams[(0 : StreamId)].deadline = some 9000
    ∧ (listedMember.onStream 0 fun x => { x with deadline := some 9000 }).streams[(0 : StreamId)].prefetch = member :: []
    ∧ member.deadline * 1000 ≤ ((10000 : Word) - 9000).toNat ∧ member.group = some 0
    ∧ listedMember.groups[(0 : GroupId)] = group .opened ⟨.registered, some member, none⟩
    ∧ (group .opened ⟨.registered, some member, none⟩).slots[(0 : StreamId)] = ⟨.registered, some member, none⟩
    ∧ (group .opened ⟨.registered, some member, none⟩).state = .opened := by decide +kernel

/-- Stream 0 with a flush pending. -/
def flushState (l : List HeldLine) : State :=
  { on0 fun x => { x with contexts := x.contexts.set 0 (some flushing) } with pairing := l }

theorem witness_FlushStep :
    (flushState [held 2, held 3]).pairing = [] ++ held 2 :: [held 3] ∧ (flushState [held 2]).pairing = [] ++ held 2 :: []
    ∧ (held 2).stream = 0 ∧ (flushState [held 2]).streams[(0 : StreamId)].contexts[(held 2).context] = some flushing
    ∧ flushing.flushPending = true ∧ flushing.request.assembly = .merge ∧ flushing.causes.writeFault = false
    ∧ flushing.causes.aborted = false ∧ (flushState [held 2]).streams[(0 : StreamId)].buffer.length < 8
    ∧ (flushState [held 2]).device ≠ .faulted ∧ (flushState [held 2]).device ≠ .resetting
    ∧ 8 ≤ (full (flushState [held 2])).streams[(0 : StreamId)].buffer.length ∧ (inState .faulted).device = .faulted
    ∧ run.pairing = [] := by decide +kernel

/-- Stream 0 with a drained capture. -/
def drainedState (q : Request) : State :=
  on0 fun x => { x with contexts := x.contexts.set 0 (some { bound q prof with
    phase := .flushing, counters := { RowCounters.zero with written := 4 } }) }

theorem witness_CaptureFinishes :
    (drainedState capture).streams[(0 : StreamId)].contexts[(0 : ContextId)] = some { bound capture prof with
      phase := .flushing, counters := { RowCounters.zero with written := 4 } }
    ∧ (bound capture prof).outstanding = 0 ∧ (drainedState capture).pairing = []
    ∧ (drainedState capture).streams[(0 : StreamId)].buffer = [] ∧ capture.group = none
    ∧ member.group = some 0
    ∧ (grouped (drainedState member) (group .fixed ⟨.bound, some member, none⟩)).groups[(0 : GroupId)].slots[(0 : StreamId)]
      = ⟨.bound, some member, none⟩
    ∧ ({ bound member prof with phase := .flushing, counters := { RowCounters.zero with written := 4 } } : Capture).status = .ok
    ∧ (bound capture prof).phase = .capturing
    ∧ ({ bound member prof with phase := .flushing } : Capture).status = .short
    ∧ (group .fixed ⟨.bound, some member, none⟩).state = .fixed ∧ (group .broken ⟨.bound, some member, none⟩).state = .broken := by
  decide +kernel

theorem witness_GroupResolves :
    ((gathered .fixed .finished).state = .fixed ∧ ∀ i : StreamId, (gathered .fixed .finished).mask[i] = true →
      (gathered .fixed .finished).slots[i].progress = .finished)
    ∧ ((gathered .broken .empty).state = .broken ∧ ∀ i : StreamId,
      (gathered .broken .empty).slots[i].progress = .empty ∨ (gathered .broken .empty).slots[i].progress = .finished)
    ∧ (gathered .fixed .finished).slots[(0 : StreamId)].request = some member
    ∧ (∀ (k : StreamId), k ≠ 0 → ∀ r ∈ (gathered .fixed .finished).slots[k].request, r.entry ≠ member.entry)
    ∧ (group .opened .empty).state = .opened
    ∧ (∃ i : StreamId, (gathered .fixed .bound).mask[i] = true ∧ (gathered .fixed .bound).slots[i].progress ≠ .finished)
    ∧ (∃ i : StreamId, (gathered .broken .bound).slots[i].progress = .registered
      ∨ (gathered .broken .bound).slots[i].progress = .bound)
    ∧ (group .fixed .empty).state = .fixed ∧ Group.free.state = .free ∧ (group .broken .empty).state = .broken := by
  decide +kernel

/-- Two registered members of group 0, each the head of its stream's list. -/
def twoMembers : Group := { group .opened ⟨.registered, some member, none⟩ with
  slots := #v[⟨.registered, some member, none⟩, ⟨.registered, some { member with entry := 8 }, none⟩, .empty, .empty] }

def twoListed : State := grouped ((on0 fun x => { x with prefetch := [member, { capture with entry := 3 }], deadline := some 9000 }).onStream 1
  fun x => { x with prefetch := [{ member with entry := 8 }] }) twoMembers

theorem witness_GroupResolves_break :
    twoListed.groups[(0 : GroupId)] = twoMembers ∧ twoMembers.state = .opened
    ∧ twoMembers.slots[(0 : StreamId)].progress = .registered ∧ twoMembers.slots[(0 : StreamId)].request = some member
    ∧ twoMembers.slots[(1 : StreamId)].request = some { member with entry := 8 }
    ∧ (∀ k : StreamId, k ≠ 0 → ∀ r ∈ twoMembers.slots[k].request, r.entry ≠ member.entry)
    ∧ twoMembers.slots[(2 : StreamId)].progress ≠ .registered := by decide +kernel

/-- A group that times out with two registered members finishes both GROUP_BROKEN, and what waits behind one becomes head
(R122, R15, R128). -/
theorem test_break_two_members :
    ∃ t, exec (.groupTimeout 0) twoListed = .next t
      ∧ t.holding[(2 : EntryId)].report.status = .groupBroken ∧ t.holding[(8 : EntryId)].report.status = .groupBroken
      ∧ t.streams[(0 : StreamId)].prefetch = [{ capture with entry := 3 }] ∧ t.streams[(1 : StreamId)].prefetch = []
      ∧ t.streams[(0 : StreamId)].deadline = some 10000 := ⟨_, rfl, by decide +kernel⟩

theorem witness_GroupTimesOut :
    (grouped (offered member) (group .opened ⟨.registered, some member, none⟩)).groups[(0 : GroupId)]
      = group .opened ⟨.registered, some member, none⟩
    ∧ (group .opened .empty).timer = some 0 ∧ (group .fixed .empty).state = .fixed
    ∧ ((999 : Word) - 0).toNat < (group .opened .empty).timeout * 1000
    ∧ (group .opened .empty).timeout * 1000 ≤ ((1000 : Word) - 0).toNat
    ∧ (∀ i : StreamId, (group .opened .empty).slots[i].progress ≠ .registered)
    ∧ (group .opened ⟨.registered, some member, none⟩).slots[(0 : StreamId)] = ⟨.registered, some member, none⟩
    ∧ (grouped (offered member) (group .opened ⟨.registered, some member, none⟩)).streams[(0 : StreamId)].prefetch = [member]
    ∧ (∀ k : StreamId, k ≠ 0 → (group .opened ⟨.registered, some member, none⟩).slots[k].progress ≠ .registered)
    ∧ Group.free.timer = none := by decide +kernel

/-! ## Witnesses: the Memory Port -/

theorem witness_DataBurstIssue :
    (2 : RequesterId).val = (0 : StreamId).val + 2 ∧ buffered.device = .running
    ∧ buffered.streams[(0 : StreamId)].buffer = outLine :: []
    ∧ (∀ q : RequesterId, (q - buffered.writeRotation).val < (2 - buffered.writeRotation : RequesterId).val →
      buffered.requesterReady q = false)
    ∧ buffered.nextWrite 0 ∧ buffered.streams[(0 : StreamId)].contexts[outLine.context] = some (bound capture prof)
    ∧ (∀ i : StreamId, run.streams[i].buffer = [])
    ∧ (∀ j : Fin Config.writeEntries,
      ({ buffered with writes := Vector.replicate 64 (.issued (trans (.capture 0 0))) } : State).writes[j] ≠ .free)
    ∧ ({ buffered with device := .faulted }).device ≠ .running ∧ ({ buffered with device := .faulted }).device ≠ .stopping := by
  decide +kernel

theorem witness_DataBurstAnswered :
    (writes (inFrame capture prof) (.capture 0 0)).writingFor 0 (.capture 0 0) ∧ (inFrame capture prof).device ≠ .resetting
    ∧ (inFrame capture prof).streams[(0 : StreamId)].contexts[(0 : ContextId)] = some (bound capture prof) := by
  decide +kernel

theorem witness_DataBurstIssue_ready :
    ((5 : RequesterId).val = (3 : StreamId).val + 2 ∧ (2 : RequesterId).val = (0 : StreamId).val + 2)
    ∧ 192 = burstLength 0x10000F40 4800 := by decide

/-- `run` with the first entry of each tracker quarantined. -/
def quarantined : State := { run with
  quarantine := 2
  reads := run.reads.set 0 (.quarantined { trans .deviceStart with owner := none })
  writes := run.writes.set 0 (.quarantined { trans .deviceStart with owner := none }) }

theorem witness_ResponsesWithoutOwner :
    run.readEntry 7 = some .free ∧ run.readEntry 8 = none ∧ run.writeEntry 63 = some .free ∧ run.writeEntry 64 = none
    ∧ quarantined.reads[(0 : Fin Config.readEntries)] = .quarantined { trans .deviceStart with owner := none }
    ∧ quarantined.writes[(0 : Fin Config.writeEntries)] = .quarantined { trans .deviceStart with owner := none }
    ∧ (reads (inState .resetting) (.slot 2)).device = .resetting
    ∧ (reads (inState .resetting) (.slot 2)).reads[(0 : Fin Config.readEntries)] = .issued (trans (.slot 2))
    ∧ (writes (inState .resetting) .statistics).writes[(0 : Fin Config.writeEntries)] = .issued (trans .statistics)
    ∧ (slotReads []).reads[(0 : Fin Config.readEntries)] = .issued (trans (.slot 2))
    ∧ (⟨[1], .okay, false⟩ : Beat).last = false := by
  decide +kernel

/-- `s` with 8 entries quarantined. -/
def eightLost (s : State) : State := { s with quarantine := 8 }

theorem witness_ResponseTimesOut :
    (writes (inFrame capture prof) (.capture 0 0)).writing 0 (trans (.capture 0 0))
    ∧ (trans (.capture 0 0)).owner = some (.capture 0 0) ∧ (inFrame capture prof).device ≠ .resetting
    ∧ (inFrame capture prof).streams[(0 : StreamId)].contexts[(0 : ContextId)] = some (bound capture prof)
    ∧ (trans .deviceStart).timeout * 1000 ≤ ((1000 : Word) - (trans .deviceStart).issueTime).toNat
    ∧ ((999 : Word) - (trans .deviceStart).issueTime).toNat < (trans .deviceStart).timeout * 1000
    ∧ (inFrame capture prof).quarantine < 8
    ∧ (eightLost (writes (inFrame capture prof) (.capture 0 0))).writing 0 (trans (.capture 0 0))
    ∧ 8 ≤ (eightLost (inFrame capture prof)).quarantine ∧ (eightLost (inFrame capture prof)).device ≠ .faulted
    ∧ (writes (snapped true) .statistics).writing 0 (trans .statistics) ∧ (trans .statistics).owner = some .statistics
    ∧ (snapped true).admin.executing = some ⟨0, 9, some (.readStats 0 0x40 true)⟩
    ∧ (answered true 0).writing 0 (trans (.completion 2)) ∧ (trans (.completion 2)).owner = some (.completion 2)
    ∧ (answered true 0).device ≠ .faulted ∧ ({ answered true 0 with device := .faulted } : State).device = .faulted := by
  decide +kernel

theorem witness_ResponseTimesOut_read :
    (slotReads []).reading 0 (trans (.slot 2)) ∧ (trans (.slot 2)).owner = some (.slot 2) ∧ ringOfEntry 2 = ringOfStream 0
    ∧ (slotReads []).rings[ringOfStream 0].state = .active
    ∧ (ring0 (slotReads []) .halted).rings[ringOfStream 0].state = .halted
    ∧ adminReads.reading 0 (trans (.slot 0)) ∧ ringOfEntry 0 = 0 ∧ adminReads.device ≠ .faulted
    ∧ (reads (loading { load with issued := 1, outstanding := 1 }) (.load 0)).reading 0 (trans (.load 0))
    ∧ (loading { load with issued := 1, outstanding := 1 }).admin.load = some { load with issued := 1, outstanding := 1 }
    ∧ (loading load).admin.executing = some ⟨0, 9, some (.readStats 0 0x40 true)⟩
    ∧ starting.reading 0 (trans .deviceStart) ∧ (trans .deviceStart).owner = some .deviceStart ∧ starting.device = .starting
    ∧ starting.allLanesOff := by decide +kernel

/-! ## Witnesses: what happens in the same event, values and invariants -/

theorem witness_EventsConclude :
    run.admin.abort = none ∧ (aborting run).admin.executing ≠ none
    ∧ (∀ i c, posting.drained i c = false) ∧ (∀ g : GroupId, posting.groups[g].resolves = false)
    ∧ posting.abortCanEnd = false ∧ posting.canStart = false ∧ posting.stopEnds = false ∧ posting.resetEnds = false
    ∧ (∀ e ∈ posting.postQueue, posting.eligible e = true) ∧ posting.postQueue.Nodup
    ∧ (∀ e f : EntryId, posting.holding[e].state ≠ .free → posting.holding[f].state ≠ .free →
      ringOfEntry e = ringOfEntry f → posting.holding[e].order = posting.holding[f].order → e = f) := by
  decide +kernel

theorem witness_EventsConclude_left :
    ((drainedState capture).drained 0 0 = true ∧ ∀ (k : StreamId) (d : ContextId), k < 0 ∨ (k = 0 ∧ d < 0) →
      (drainedState capture).drained k d = false)
    ∧ ((∀ i c, (grouped run (gathered .fixed .finished)).drained i c = false)
      ∧ (grouped run (gathered .fixed .finished)).groups[(0 : GroupId)].resolves = true)
    ∧ ((∀ i c, (aborting run).drained i c = false) ∧ (∀ g : GroupId, (aborting run).groups[g].resolves = false)
      ∧ (aborting run).abortCanEnd = true)
    ∧ ((waiting none).abortCanEnd = false ∧ (waiting none).canStart = true)
    ∧ ((inState .stopping).canStart = false ∧ (inState .stopping).stopEnds = true)
    ∧ ((inState .resetting).canStart = false ∧ (inState .resetting).resetEnds = true) := by decide +kernel

theorem witness_StatusPrecedence :
    ((bound capture prof).counters.written.toNat < (bound capture prof).request.rows
      ∨ (bound capture prof).counters.short ≠ 0 ∨ (bound capture prof).counters.overrun ≠ 0)
    ∧ (bound capture prof).causes = ⟨false, false, false, false⟩ := by decide

theorem witness_CompletionRecordLayout : ({ HoldingEntry.free with slotIndex := 4095 } : HoldingEntry).slotIndex < 65536 := by
  decide

theorem witness_RecordsReadBack :
    capture.kind = .capture ∧ capture.fits = true ∧ capture.selector = .next ∧ capture.number = 0 ∧ capture.deadline < 65536
    ∧ capture.length < 2 ^ 64 ∧ member.group ≠ none ∧ member.selector = .next ∧ (numbered 5).group = none
    ∧ (AdminOp.createRing 0 0x1000 10).fits = true ∧ (AdminOp.openGroup 7 0b0011 65535).fits = true
    ∧ (AdminOp.loadDefects 3 0x3000 1024).fits = true := by decide

/-- `run` with one tick to come. -/
def ticking : State := { run with pending := [.timeBaseTick] }

theorem witness_StepKeepsInterruptLine : ticking.lineFollows ∧ ∃ t, step ticking = .next t := ⟨rfl, _, rfl⟩

theorem witness_StepKeepsDeviceState :
    (ticking.deviceFits ∧ ticking.startFits) ∧ ∃ t, step ticking = .next t := by
  refine ⟨⟨⟨by decide +kernel, by decide +kernel, by decide +kernel, by decide +kernel⟩, ?_⟩, _, rfl⟩
  have f : ∀ j : Fin Config.readEntries, ticking.reads[j] = .free := by decide +kernel
  refine ⟨by decide +kernel, by decide +kernel, fun h => absurd h (by decide +kernel), by decide +kernel, ?_⟩
  intro _ _ j t h
  rw [f j] at h
  cases h

theorem witness_StepKeepsStreams : (∀ i, ticking.streamFits i) ∧ ∃ t, step ticking = .next t := ⟨run_fits rfl rfl, _, rfl⟩

theorem witness_StepKeepsCounts :
    (ticking.ringsBounded ∧ ticking.quarantineCounts ∧ ticking.ownersFit ∧ ticking.boundsFit)
    ∧ (ticking.startFits ∧ ticking.entriesHeld ∧ ticking.listsFit) ∧ ∃ t, step ticking = .next t := by
  have r : ∀ j : Fin Config.readEntries, ticking.reads[j] = .free := by decide +kernel
  have w : ∀ j : Fin Config.writeEntries, ticking.writes[j] = .free := by decide +kernel
  refine ⟨⟨⟨by decide +kernel, by decide +kernel⟩, by unfold State.quarantineCounts; decide +kernel, fun _ => ⟨?_, ?_⟩,
    ⟨by decide +kernel, by decide +kernel, by decide +kernel, by decide +kernel⟩⟩,
    ⟨witness_StepKeepsDeviceState.1.2, ⟨?_, ?_⟩, ⟨?_, ?_, by decide +kernel, by decide +kernel⟩⟩, _, rfl⟩
  · intro j t h
    rw [r j] at h
    cases h
  · intro j t h
    rw [w j] at h
    cases h
  · intro j e h
    rw [r j] at h
    cases h
  · intro j e h
    rw [w j] at h
    cases h
  · intro j k e f h
    rw [r j] at h
    cases h
  · intro j e h
    rw [r j] at h
    cases h

end Sys2Proof.Tests
end

section
/-!
Frame numbers (R2): the order of two frame numbers as the range of their distance modulo 65536, and a range of the
distance as a count of steps from one number up to the other.
-/
namespace Sys2Proof.Proofs
open Sys2Proof.Machine

/-- The three rows of R2's table, on the distance `(F - n) mod 65536`. -/
theorem frameOrder_eq_iff_toNat_sub (f n : Half) :
    (frameOrder f n = .equal ↔ (f - n).toNat = 0)
    ∧ (frameOrder f n = .ahead ↔ 1 ≤ (f - n).toNat ∧ (f - n).toNat ≤ 32767)
    ∧ (frameOrder f n = .behind ↔ 32768 ≤ (f - n).toNat) := by
  unfold frameOrder
  split_ifs with hzero hnear <;> simp only [true_iff, false_iff] <;> omega

theorem toNat_sub_eq_zero_iff (a b : Half) : (a - b).toNat = 0 ↔ a = b := by
  rw [← BitVec.toNat_zero (w := 16), BitVec.toNat_inj]
  exact sub_eq_zero

/-- The number of steps from `b` up to `a`, where it is below 65536, is the distance `a - b`. -/
theorem exists_steps_iff_toNat_sub (a b : Half) {m : Nat} (hm : m < 65536) :
    (∃ k : Nat, 1 ≤ k ∧ k ≤ m ∧ a = b + BitVec.ofNat 16 k) ↔ 1 ≤ (a - b).toNat ∧ (a - b).toNat ≤ m := by
  constructor
  · rintro ⟨k, hpos, hle, rfl⟩
    have hk : (b + BitVec.ofNat 16 k - b).toNat = k := by
      rw [add_sub_cancel_left]
      exact (BitVec.toNat_ofNat k 16).trans (Nat.mod_eq_of_lt (by omega))
    rw [hk]
    exact ⟨hpos, hle⟩
  · rintro ⟨hpos, hle⟩
    refine ⟨(a - b).toNat, hpos, hle, ?_⟩
    rw [BitVec.ofNat_toNat, BitVec.setWidth_eq, add_sub_cancel]

/-- The distances in the two directions add up to 65536 unless both are 0, so the far half one way is the near half,
with 32768 in it, the other way. -/
theorem le_toNat_sub_iff_toNat_sub_swap_le (f n : Half) :
    32768 ≤ (f - n).toNat ↔ 1 ≤ (n - f).toNat ∧ (n - f).toNat ≤ 32768 := by
  bv_omega

/-- Settles O52: each order is a range of the distance, and each range is a count of steps, for `behind` counted from
`F` up to `n`. -/
theorem frameNumbersOrdered : Obligations.FrameNumbersOrdered := by
  unfold Obligations.FrameNumbersOrdered
  intro f n
  obtain ⟨hequal, hahead, hbehind⟩ := frameOrder_eq_iff_toNat_sub f n
  refine ⟨?equal, ?ahead, ?behind⟩
  case equal => rw [hequal, toNat_sub_eq_zero_iff]
  case ahead => rw [hahead, exists_steps_iff_toNat_sub f n (by decide)]
  case behind => rw [hbehind, le_toNat_sub_iff_toNat_sub_swap_le, exists_steps_iff_toNat_sub n f (by decide)]

end Sys2Proof.Proofs
end

section
/-!
The status of a capture that bound a frame (R22): one equation for each entry of the list, each with the entries before
it excluded, and the order of the list as the split into these cases.
-/
namespace Sys2Proof.Proofs
open Sys2Proof.Machine

/-- Fewer rows than the window's were written, or a row was short or overrun: when SHORT applies (R22). -/
def RowsMissing (k : Capture) : Prop :=
  k.counters.written.toNat < k.request.rows ∨ k.counters.short ≠ 0 ∨ k.counters.overrun ≠ 0

/-- None of the entries before SHORT applies: the causes a capture records on its way (R22). -/
structure NoCause (k : Capture) : Prop where
  writeFault : k.causes.writeFault = false
  aborted : k.causes.aborted = false
  linkLost : k.causes.linkLost = false
  truncated : k.causes.truncated = false

/-- The model's test for SHORT decides `RowsMissing`. -/
theorem rowsMissing_test_iff (k : Capture) :
    (k.counters.written.toNat < k.request.rows || k.counters.short != 0 || k.counters.overrun != 0) = true
      ↔ RowsMissing k := by
  simp only [RowsMissing, Bool.or_eq_true, decide_eq_true_eq, bne_iff_ne, or_assoc]

section
variable {k : Capture}

theorem status_of_writeFault (hwrite : k.causes.writeFault = true) : k.status = .writeFault := by
  simp [Capture.status, hwrite]

theorem status_of_aborted (hwrite : k.causes.writeFault = false) (habort : k.causes.aborted = true) :
    k.status = .aborted := by
  simp [Capture.status, hwrite, habort]

theorem status_of_linkLost (hwrite : k.causes.writeFault = false) (habort : k.causes.aborted = false)
    (hlink : k.causes.linkLost = true) : k.status = .linkLost := by
  simp [Capture.status, hwrite, habort, hlink]

theorem status_of_truncated (hwrite : k.causes.writeFault = false) (habort : k.causes.aborted = false)
    (hlink : k.causes.linkLost = false) (htrunc : k.causes.truncated = true) : k.status = .truncated := by
  simp [Capture.status, hwrite, habort, hlink, htrunc]

/-- Past the causes only the counts of rows decide. -/
theorem status_of_noCause (hnone : NoCause k) :
    k.status =
      if k.counters.written.toNat < k.request.rows || k.counters.short != 0 || k.counters.overrun != 0 then .short
      else if k.counters.damaged != 0 then .damaged else .ok := by
  obtain ⟨hwrite, habort, hlink, htrunc⟩ := hnone
  simp only [Capture.status, hwrite, habort, hlink, htrunc, Bool.false_eq_true, if_false]

theorem status_of_rowsMissing (hnone : NoCause k) (hrows : RowsMissing k) : k.status = .short := by
  rw [status_of_noCause hnone, if_pos ((rowsMissing_test_iff k).mpr hrows)]

theorem status_of_damaged (hnone : NoCause k) (hrows : ¬RowsMissing k) (hdamaged : k.counters.damaged ≠ 0) :
    k.status = .damaged := by
  rw [status_of_noCause hnone, if_neg ((rowsMissing_test_iff k).not.mpr hrows), if_pos (bne_iff_ne.mpr hdamaged)]

theorem status_of_not_damaged (hnone : NoCause k) (hrows : ¬RowsMissing k) (hdamaged : k.counters.damaged = 0) :
    k.status = .ok := by
  rw [status_of_noCause hnone, if_neg ((rowsMissing_test_iff k).not.mpr hrows), hdamaged]
  rfl

end

/-- Settles O53: a split along the list, in its order; in each case the equation of the first entry that applies gives
the status, which excludes the entries before and behind it. -/
theorem statusPrecedence : Obligations.StatusPrecedence := by
  unfold Obligations.StatusPrecedence
  intro k isShort isDamaged (hshort : isShort ↔ RowsMissing k) hdamaged
  obtain hwrite | hwrite := k.causes.writeFault.eq_false_or_eq_true
  · simp [status_of_writeFault hwrite, hwrite]
  obtain habort | habort := k.causes.aborted.eq_false_or_eq_true
  · simp [status_of_aborted hwrite habort, hwrite, habort]
  obtain hlink | hlink := k.causes.linkLost.eq_false_or_eq_true
  · simp [status_of_linkLost hwrite habort hlink, hwrite, habort, hlink]
  obtain htrunc | htrunc := k.causes.truncated.eq_false_or_eq_true
  · simp [status_of_truncated hwrite habort hlink htrunc, hwrite, habort, hlink, htrunc]
  have hnone : NoCause k := ⟨hwrite, habort, hlink, htrunc⟩
  by_cases hrows : RowsMissing k
  · simp [status_of_rowsMissing hnone hrows, hwrite, habort, hlink, htrunc, hshort, hrows]
  by_cases hzero : k.counters.damaged = 0
  · simp [status_of_not_damaged hnone hrows hzero, hwrite, habort, hlink, htrunc, hshort, hrows, hdamaged, hzero]
  · simpa [status_of_damaged hnone hrows hzero, hwrite, habort, hlink, htrunc, hshort, hrows, hdamaged] using hzero

end Sys2Proof.Proofs
end

section
/-!
The interrupt line, the device state and the trackers at every step (R205, R189, R191): a property that does not look at
the blocks between the Register Window and the Memory Port is kept by every step once the events at the two ends keep it.
-/
namespace Sys2Proof.Proofs
open Sys2Proof.Machine

/-- The state with the blocks between the Register Window and the Memory Port blanked, and the queue of commands. -/
def ends (s : State) : State := { s.outside with pending := [] }

theorem ends_inside : QuietInside ends where
  on _ := ⟨⟨fun _ _ _ => rfl, fun _ _ _ => rfl, fun _ _ => rfl, fun _ _ => rfl, fun _ _ _ _ => rfl⟩, fun _ _ => rfl⟩
  ring _ _ _ := rfl
  queue _ _ := rfl

theorem ends_of_outside {s t : State} (e : t.outside = s.outside) : ends t = ends s :=
  congrArg (fun u : State => ({ u with pending := [] } : State)) e

/-- What is left to show of a property that looks only at the Register Window, the Time Base, coalescing and the Memory
Port: what the device, the registers and the Memory Port do themselves. -/
structure KeptOutside (P : State → Prop) : Prop where
  blind : ∀ s : State, P s ↔ P (ends s)
  irq : ∀ s a b, P s → P (State.withIrq s a b)
  enable : ∀ (s : State) b d, P s → P { s with enable := b, enableDropped := d }
  address : ∀ (s : State) a, P s → P { s with setupAddress := a }
  tick : ∀ (s : State) n, P s → P { s with timeBase := n }
  completion : ∀ (s : State) c, P s → P { s with completion := c }
  coalescing : ∀ (s : State) n m, P s → P { s with coalescingCount := n, coalescingTimer := m }
  accepted : ∀ (s : State) v, P s → P { s with setup := v }
  rotation : ∀ (s : State) r q, P s → P { s with fetchRotation := r, writeRotation := q }
  reset : ∀ s, P (State.toReset s)
  stopped : ∀ s, P (State.toStopped s)
  faulted : ∀ (s : State) d id t c, c ≠ .none → s.trackerEntry d id = some (.issued t) → s.device ≠ .resetting → P s →
    P { s.setTracker d id .free with device := .faulted, cause := c }
  stopping : ∀ s : State, s.device = .running → P s → P { s with device := .stopping }
  softReset : ∀ s : State, s.device ≠ .resetting → P s → P { s with
    device := .resetting, softReset := true, quarantine := 0
    reads := s.reads.map TrackerEntry.unquarantined, writes := s.writes.map TrackerEntry.unquarantined }
  start : ∀ s : State, s.device = .off → P s → P s.beginStart
  running : ∀ (s : State) id t, s.readEntry id = some (.issued t) → t.owner = some .deviceStart →
    s.device ≠ .resetting → P s → P { s.setTracker .read id .free with device := .running }
  read : ∀ (s : State) k o a n ms, s.device = .running ∨ s.device = .stopping → o ≠ .deviceStart → P s →
    P (s.issueRead k o a n ms)
  write : ∀ (s : State) k o a d, s.device = .running ∨ s.device = .stopping → P s → P (s.issueWrite k o a d)
  collect : ∀ (s : State) id t l, s.readEntry id = some (.issued t) → P s →
    P (s.setTracker .read id (.issued { t with beats := l }))
  free : ∀ (s : State) d id t, s.trackerEntry d id = some (.issued t) → P s → P (s.setTracker d id .free)
  late : ∀ (s : State) d id t, s.trackerEntry d id = some (.quarantined t) → P s → P (s.lateFreed d id)
  timeout : ∀ (s : State) d id t, s.trackerEntry d id = some (.issued t) → s.device ≠ .resetting → P s →
    P (s.timeOut d id t)

section
variable {P : State → Prop} (h : KeptOutside P)
include h

/-- What leaves the two ends as they are keeps the property. -/
theorem KeptOutside.of_eq {s t : State} (e : ends t = ends s) (hs : P s) : P t :=
  (h.blind t).mpr (e ▸ (h.blind s).mp hs)

theorem KeptOutside.raiseIrq {s : State} (b : BitVec 5) (hs : P s) : P (s.raiseIrq b) := h.irq _ _ _ hs

theorem KeptOutside.closeFrame {s : State} (i : StreamId) (x : Close) (hs : P s) : P (s.closeFrame i x) :=
  h.of_eq ((ends_inside.on i).closeFrame s x) hs

/-- An item that a lane hands over is a matter of its stream, but for the LANE bit of a lane loss (R27). -/
theorem KeptOutside.takeItem {s : State} (i : StreamId) (a : LaneItem) (hs : P s) : P (s.takeItem i a) := by
  cases a with
  | frameStart n id => exact h.of_eq ((ends_inside.on i).takeFrameStart s n id) hs
  | line n e px d => exact h.of_eq ((ends_inside.on i).takeLine s _ e px d) hs
  | frameEnd n c => exact h.of_eq ((ends_inside.on i).takeFrameEnd s n c) hs
  | headerError => exact h.of_eq ((ends_inside.on i).bump s i fun n => { n with headerErrors := satInc n.headerErrors }) hs
  | linkUp => exact h.of_eq ((ends_inside.on i).own s _) hs
  | retrain => exact h.closeFrame i _ hs
  | laneLoss =>
    exact h.raiseIrq _ (h.of_eq ((ends_inside.on i).bump _ i _) (h.of_eq ((ends_inside.on i).own _ _) (h.closeFrame i _ hs)))

theorem KeptOutside.takeItems {s : State} (i : StreamId) (l : List LaneItem) (hs : P s) :
    P (l.foldl (State.takeItem i) s) := by
  induction l generalizing s with
  | nil => exact hs
  | cons a l ih => exact ih (h.takeItem i a hs)

/-- A fault: the device state and the cause, the FAULT bit, and the lanes (R200). -/
theorem KeptOutside.enterFaulted {s : State} (c : FaultCause) (hs : P s)
    (hf : P { s with device := .faulted, cause := c }) : P (s.enterFaulted c) := by
  unfold State.enterFaulted
  split
  · exact hs
  · exact h.of_eq (ends_inside.lanesOff _) (h.raiseIrq _ hf)

theorem KeptOutside.startRunning {s : State} (v : Setup) (hs : P { s with device := .running }) : P (s.startRunning v) := by
  have hring : P ({ s with device := .running }.onRing 0 fun _ => ⟨.active, v.adminBase, v.adminSlots, 0, 0, false⟩) :=
    h.of_eq (ends_inside.ring _ _ _) hs
  exact h.of_eq (ends_inside.lanesOn _)
    (h.coalescing _ 0 none (h.completion _ ⟨true, v.completionBase, v.completionSlots, 0, 0, true⟩ (h.accepted _ (some v) hring)))

theorem KeptOutside.beginReset {s : State} (hd : s.device ≠ .resetting) (hs : P s) : P s.beginReset :=
  h.of_eq (ends_inside.lanesOff _) (h.softReset s hd hs)

theorem KeptOutside.grantFetch {s : State} (r : RingId) (hm : s.mayFetch r = true) (hs : P s) : P (s.grantFetch r) := by
  have hd : s.device = .running := by
    simp only [State.mayFetch, Bool.and_eq_true, decide_eq_true_eq] at hm
    exact hm.1.1.1.1.1
  unfold State.grantFetch
  split
  · exact h.read _ _ _ _ _ _ (.inl hd) (by simp)
      (h.rotation _ _ s.writeRotation (h.of_eq (ends_inside.ring _ _ _) (h.of_eq (ends_inside.quiet.entry _ _ _) hs)))
  · exact hs

/-- A property that looks only at the two ends is kept by every operation. -/
theorem KeptOutside.kept : Kept P where
  still s m e hs := h.of_eq (s := s) (t := m) (congrArg ends e :) hs
  irq := h.irq
  enable := h.enable
  address := h.address
  tick := h.tick
  reset := h.reset
  stopped := h.stopped
  faulted s d id t c hc hi hd hs := h.enterFaulted c (h.free s d id t hi hs) (h.faulted s d id t c hc hi hd hs)
  fetchFaulted s id t r c hc hi hd hs :=
    h.enterFaulted c (h.of_eq (ends_inside.ring _ _ _) (h.free s .read id t hi hs))
      (h.of_eq (ends_inside.ring { s.setTracker .read id .free with device := .faulted, cause := c } r
        fun x => { x with inFlight := false }) (h.faulted s .read id t c hc hi hd hs))
  stopping s hd hs := h.of_eq (ends_inside.lanesOff _) (h.stopping s hd hs)
  softReset _ hd hs := h.beginReset hd hs
  start := h.start
  setup s id t v hi ho hd hs := h.startRunning v (h.running s id t hi ho hd hs)
  read := h.read
  write := h.write
  turn s q hs := h.rotation s s.fetchRotation q hs
  collect := h.collect
  free := h.free
  late := h.late
  timeout := h.timeout
  land _ _ hs := h.of_eq (ends_inside.ring _ _ _) hs
  halt _ _ _ hs := h.of_eq (ends_inside.ring _ _ _) hs
  active _ _ _ hs := h.of_eq (ends_inside.ring _ _ _) hs
  skip _ _ _ hs := h.of_eq (ends_inside.ring _ _ _) hs
  create _ _ _ _ hs := h.of_eq (ends_inside.ring _ _ _) hs
  delete _ _ hs := h.of_eq (ends_inside.ring _ _ _) hs
  produce _ _ _ _ _ hs := h.of_eq (ends_inside.ring _ _ _) hs
  consume s _ _ hs := h.completion s _ hs
  fetch _ r hm hs := h.grantFetch r hm hs
  post s _ _ hs := h.completion s _ hs
  coalescing := h.coalescing
  lane s i w hs := h.takeItems i _ (h.of_eq ((ends_inside.on i).laneStep s w) hs)
  frameStart _ i n id _ hs := h.of_eq ((ends_inside.on i).takeFrameStart _ n id) hs
  line _ i n e px d hs := h.of_eq ((ends_inside.on i).takeLine _ n e px d) hs
  frameEnd _ i n c hs := h.of_eq ((ends_inside.on i).takeFrameEnd _ n c) hs
  close _ i x hs := h.closeFrame i x hs
  configure _ i _ on hs := h.of_eq ((ends_inside.on i).setLaneEnable _ on) (h.of_eq ((ends_inside.on i).own _ _) hs)
  stage _ i t hs := h.of_eq ((ends_inside.on i).stageDefects _ t) hs

end

end Sys2Proof.Proofs
end

section
/-!
The trackers of the Memory Port (R178, R187, R189): where an ID stands, what a fault and a response timeout do to the
device and the trackers, and the interrupt line, which only `State.withIrq` moves (R205).
-/
namespace Sys2Proof.Proofs
open Sys2Proof.Machine

/-! ## Entries by their index -/

/-- One element of a vector after another has been written. -/
theorem get_set {α : Type} {n : Nat} (v : Vector α n) (j k : Fin n) (x : α) :
    (v.set j x)[k] = if k = j then x else v[k] := by
  simp only [Fin.getElem_fin, Vector.getElem_set, Fin.ext_iff, eq_comm]

theorem readEntry_some {s : State} {id : Nat} {e : TrackerEntry} (h : s.readEntry id = some e) :
    ∃ j : Fin Config.readEntries, id = j ∧ s.reads[j] = e := by
  obtain ⟨hlt, he⟩ := Vector.getElem?_eq_some_iff.mp h
  exact ⟨⟨id, hlt⟩, rfl, he⟩

theorem writeEntry_some {s : State} {id : Nat} {e : TrackerEntry} (h : s.writeEntry id = some e) :
    ∃ j : Fin Config.writeEntries, id = j ∧ s.writes[j] = e := by
  obtain ⟨hlt, he⟩ := Vector.getElem?_eq_some_iff.mp h
  exact ⟨⟨id, hlt⟩, rfl, he⟩

theorem setTracker_read_fin (s : State) (j : Fin Config.readEntries) (e : TrackerEntry) :
    s.setTracker .read j e = { s with reads := s.reads.set j e } :=
  congrArg (fun v => ({ s with reads := v } : State)) (setIfInBounds_fin s.reads j e)

theorem setTracker_write_fin (s : State) (j : Fin Config.writeEntries) (e : TrackerEntry) :
    s.setTracker .write j e = { s with writes := s.writes.set j e } :=
  congrArg (fun v => ({ s with writes := v } : State)) (setIfInBounds_fin s.writes j e)

/-- The entry that a search for the lowest FREE one finds is FREE (R178). -/
theorem free_of_lowestFree {n : Nat} {v : Vector TrackerEntry n} {j : Fin n} (h : lowestFree v = some j) :
    v[j] = .free := by
  simpa using List.find?_some h

/-! ## Faults -/

/-- Outside FAULTED a fault is `State.withFault`, but for the lanes and what their going off brings about (R200). -/
theorem outside_enterFaulted {s : State} (hd : s.device ≠ .faulted) (c : FaultCause) :
    (s.enterFaulted c).outside = (s.withFault c).outside := by
  unfold State.enterFaulted
  rw [if_neg hd, State.outside_quiet.lanesOff]
  rfl

theorem enterFaulted_of_faulted {s : State} (hd : s.device = .faulted) (c : FaultCause) : s.enterFaulted c = s :=
  if_pos hd

/-- A fault issues and frees nothing. -/
theorem trackers_enterFaulted (s : State) (c : FaultCause) : (s.enterFaulted c).reads = s.reads
    ∧ (s.enterFaulted c).writes = s.writes ∧ (s.enterFaulted c).quarantine = s.quarantine := by
  by_cases hd : s.device = .faulted
  · rw [enterFaulted_of_faulted hd]
    exact ⟨rfl, rfl, rfl⟩
  · have e := outside_enterFaulted hd c
    exact ⟨(congrArg State.reads e :), (congrArg State.writes e :), (congrArg State.quarantine e :)⟩

theorem outside_slotFails_stream {s : State} {e : EntryId} (he : ringOfEntry e ≠ 0) :
    (s.slotFails e).outside = s.outside := by
  unfold State.slotFails
  dsimp only
  rw [if_neg he]
  rfl

theorem slotFails_admin {s : State} {e : EntryId} (he : ringOfEntry e = 0) :
    s.slotFails e = (s.onRing 0 fun x => { x with inFlight := false }).enterFaulted .adminFetch := by
  unfold State.slotFails
  dsimp only
  rw [he, if_pos rfl]

/-- A fault from `s`: the cause it gives, and where the device stands then. -/
def Faults (s t : State) : Prop := ∃ c, c ≠ .none ∧ s.device ≠ .faulted ∧ t.outside = (s.withFault c).outside

theorem enterFaulted_cases (s : State) {c : FaultCause} (hc : c ≠ .none) :
    (s.device = .faulted ∧ s.enterFaulted c = s) ∨ Faults s (s.enterFaulted c) := by
  by_cases hd : s.device = .faulted
  · exact .inl ⟨hd, enterFaulted_of_faulted hd c⟩
  · exact .inr ⟨c, hc, hd, outside_enterFaulted hd c⟩

/-- A failed owner leaves the Register Window and the Memory Port as they are, or faults the device; the setup read's
owner always faults a device that is not FAULTED (R186). -/
theorem failOwner_cases (s : State) (o : Option Owner) :
    ((s.failOwner o).outside = s.outside ∧ (o = some .deviceStart → s.device = .faulted)) ∨ Faults s (s.failOwner o) := by
  have fault : ∀ c, c ≠ .none → (∀ o : Option Owner, s.failOwner o = s.enterFaulted c →
      ((s.failOwner o).outside = s.outside ∧ (o = some .deviceStart → s.device = .faulted)) ∨ Faults s (s.failOwner o)) := by
    intro c hc o ho
    rw [ho]
    exact (enterFaulted_cases s hc).imp (fun ⟨hd, he⟩ => ⟨by rw [he], fun _ => hd⟩) id
  match o with
  | none => exact .inl ⟨rfl, nofun⟩
  | some .deviceStart => exact fault .setupRead (by decide) _ rfl
  | some (.completion _) => exact fault .completionWrite (by decide) _ rfl
  | some (.load _) => exact .inl ⟨State.outside_quiet.quiet.burstFails s, nofun⟩
  | some (.capture i c) => exact .inl ⟨State.outside_quiet.quiet.writeFault s i c, nofun⟩
  | some .statistics => exact .inl ⟨State.outside_quiet.quiet.complete s _ _, nofun⟩
  | some (.slot e) =>
    by_cases he : ringOfEntry e = 0
    · rw [show s.failOwner (some (.slot e)) = _ from slotFails_admin he]
      refine (enterFaulted_cases (s.onRing 0 fun x => { x with inFlight := false }) (c := .adminFetch) (by decide)).imp ?_ ?_
      · rintro ⟨-, h⟩; exact ⟨by rw [h]; rfl, nofun⟩
      · rintro ⟨c, hc, hd, h⟩; exact ⟨c, hc, hd, h⟩
    · exact .inl ⟨outside_slotFails_stream he, nofun⟩

/-! ## Response timeouts -/

/-- The trackers of `s` with entry `id` QUARANTINED, its owner forgotten, and counted (R187). -/
structure Quarantined (s v : State) (d : Direction) (id : Nat) (t : Transaction) : Prop where
  softReset : v.softReset = s.softReset
  quarantine : v.quarantine = s.quarantine + 1
  reads : v.reads = (s.setTracker d id (.quarantined { t with owner := none })).reads
  writes : v.writes = (s.setTracker d id (.quarantined { t with owner := none })).writes

/-- What a response timeout does to the device and the trackers, whatever its owner does (R187, R189). -/
structure TimedOut (s v : State) (d : Direction) (id : Nat) (t : Transaction) : Prop extends Quarantined s v d id t where
  device : (v.device = s.device ∧ v.cause = s.cause
      ∧ (s.device = .faulted ∨ (s.quarantine < 8 ∧ t.owner ≠ some .deviceStart)))
    ∨ (v.device = .faulted ∧ v.cause ≠ .none)

/-- Two states of one outside, one of them with the FAULT cause of a fault or without, stand alike in the trackers. -/
theorem Quarantined.of_outside {s u v : State} {d : Direction} {id : Nat} {t : Transaction} (h : Quarantined s u d id t)
    (e : v.outside = u.outside ∨ Faults u v) : Quarantined s v d id t := by
  obtain e | ⟨c, -, -, e⟩ := e
  all_goals
    exact ⟨(congrArg State.softReset e :).trans h.softReset, (congrArg State.quarantine e :).trans h.quarantine,
      (congrArg State.reads e :).trans h.reads, (congrArg State.writes e :).trans h.writes⟩

theorem outside_quarantineEntry (x : State) (d : Direction) (id : Nat) (t : Transaction) :
    (x.quarantineEntry d id t).outside = x.outside.quarantineEntry d id t := by
  cases d <;> rfl

theorem quarantined_quarantineEntry (s : State) (d : Direction) (id : Nat) (t : Transaction) :
    Quarantined s (s.quarantineEntry d id t) d id t := by
  cases d <;> exact ⟨rfl, rfl, rfl, rfl⟩

/-- An entry that is QUARANTINED behind a fault: the fault stands, and the entry is QUARANTINED. -/
theorem faults_quarantineEntry {s u : State} (d : Direction) (id : Nat) (t : Transaction) (h : Faults s u) :
    Faults (s.quarantineEntry d id t) (u.quarantineEntry d id t) := by
  obtain ⟨c, hc, hd, e⟩ := h
  refine ⟨c, hc, by cases d <;> exact hd, ?_⟩
  rw [outside_quarantineEntry, e]
  cases d <;> rfl

theorem Faults.device {s t : State} (h : Faults s t) : t.device = .faulted ∧ t.cause ≠ .none := by
  obtain ⟨c, hc, -, e⟩ := h
  exact ⟨(congrArg State.device e :), (congrArg State.cause e :).trans_ne hc⟩

theorem judgeQuarantine_cases (u : State) :
    (u.judgeQuarantine = u ∧ (u.device = .faulted ∨ u.quarantine < 9)) ∨ Faults u u.judgeQuarantine := by
  unfold State.judgeQuarantine Config.quarantineLimit
  split
  · exact (enterFaulted_cases u (by decide)).imp (fun ⟨hd, e⟩ => ⟨e, .inl hd⟩) id
  · exact .inl ⟨rfl, .inr (by omega)⟩

theorem timeOut_timedOut (s : State) (d : Direction) (id : Nat) (t : Transaction) : TimedOut s (s.timeOut d id t) d id t := by
  have hq := quarantined_quarantineEntry s d id t
  have hs : (s.quarantineEntry d id t).device = s.device ∧ (s.quarantineEntry d id t).cause = s.cause := by
    cases d <;> exact ⟨rfl, rfl⟩
  -- the state with the owner failed and the entry QUARANTINED, and whether the owner has faulted the device
  obtain ⟨hu, hcase⟩ : Quarantined s ((s.failOwner t.owner).quarantineEntry d id t) d id t
      ∧ ((((s.failOwner t.owner).quarantineEntry d id t).device = s.device
          ∧ ((s.failOwner t.owner).quarantineEntry d id t).cause = s.cause ∧ (t.owner = some .deviceStart → s.device = .faulted))
        ∨ (((s.failOwner t.owner).quarantineEntry d id t).device = .faulted
          ∧ ((s.failOwner t.owner).quarantineEntry d id t).cause ≠ .none)) := by
    rcases failOwner_cases s t.owner with ⟨ho, hstart⟩ | hf
    · have e : ((s.failOwner t.owner).quarantineEntry d id t).outside = (s.quarantineEntry d id t).outside := by
        rw [outside_quarantineEntry, ho, outside_quarantineEntry]
      exact ⟨hq.of_outside (.inl e),
        .inl ⟨(congrArg State.device e :).trans hs.1, (congrArg State.cause e :).trans hs.2, hstart⟩⟩
    · have hf := faults_quarantineEntry d id t hf
      exact ⟨hq.of_outside (.inr hf), .inr hf.device⟩
  unfold State.timeOut
  generalize (s.failOwner t.owner).quarantineEntry d id t = u at hu hcase
  rcases judgeQuarantine_cases u with ⟨e, hlim⟩ | hf
  · rw [e]
    refine ⟨hu, hcase.imp_left fun ⟨hd, hc, hstart⟩ => ⟨hd, hc, ?_⟩⟩
    by_cases hf : s.device = .faulted
    · exact .inl hf
    · have hlt : u.quarantine < 9 := hlim.resolve_left (hd ▸ hf)
      rw [hu.quarantine] at hlt
      exact .inr ⟨by omega, fun ho => hf (hstart ho)⟩
  · exact ⟨hu.of_outside (.inr hf), .inr hf.device⟩

end Sys2Proof.Proofs
end

section
/-! The interrupt line at every step (R205). -/
namespace Sys2Proof.Proofs
open Sys2Proof.Machine

theorem lineFollows_of_ends {s t : State} (e : ends t = ends s) (hs : s.lineFollows) : t.lineFollows :=
  (e ▸ hs : (ends t).lineFollows)

theorem lineFollows_enterFaulted {s : State} (c : FaultCause) (hs : s.lineFollows) : (s.enterFaulted c).lineFollows := by
  unfold State.enterFaulted
  split
  · exact hs
  · exact lineFollows_of_ends (ends_inside.lanesOff _) rfl

theorem lineFollows_failOwner {s : State} (o : Option Owner) (hs : s.lineFollows) : (s.failOwner o).lineFollows := by
  rcases failOwner_cases s o with ⟨e, -⟩ | ⟨c, -, -, e⟩
  · exact lineFollows_of_ends (ends_of_outside e) hs
  · exact lineFollows_of_ends (ends_of_outside e) rfl

theorem lineFollows_timeOut {s : State} (d : Direction) (id : Nat) (t : Transaction) (hs : s.lineFollows) :
    (s.timeOut d id t).lineFollows := by
  have hq : ((s.failOwner t.owner).quarantineEntry d id t).lineFollows := by
    have hf := lineFollows_failOwner t.owner hs
    cases d <;> exact hf
  unfold State.timeOut State.judgeQuarantine
  split
  · exact lineFollows_enterFaulted _ hq
  · exact hq

theorem lineFollows_issueRead {s : State} (k : TransactionKind) (o : Owner) (a : Addr) (n ms : Nat) (hs : s.lineFollows) :
    (s.issueRead k o a n ms).lineFollows := by
  unfold State.issueRead
  split <;> exact hs

/-- The line follows its registers through every operation: `State.withIrq` sets it with them, and nothing else moves
any of the three. -/
theorem lineFollows_kept : KeptOutside State.lineFollows where
  blind _ := Iff.rfl
  irq _ _ _ _ := rfl
  enable _ _ _ hs := hs
  address _ _ hs := hs
  tick _ _ hs := hs
  completion _ _ hs := hs
  coalescing _ _ _ hs := hs
  accepted _ _ hs := hs
  rotation _ _ _ hs := hs
  reset _ := (by decide : false = lineLevel 0 0)
  stopped _ := rfl
  faulted s d id t c _ _ _ hs := by cases d <;> exact hs
  stopping _ _ hs := hs
  softReset _ _ hs := hs
  start s _ hs := by
    unfold State.beginStart
    dsimp only
    split
    · exact lineFollows_issueRead (s := { s with device := .starting, enableDropped := false }) _ _ _ _ _ hs
    · exact lineFollows_enterFaulted (s := { s with device := .starting, enableDropped := false }) _ hs
  running _ _ _ _ _ _ hs := hs
  read _ _ _ _ _ _ _ _ hs := lineFollows_issueRead _ _ _ _ _ hs
  write _ _ _ _ _ _ hs := by
    unfold State.issueWrite
    split <;> exact hs
  collect _ _ _ _ _ hs := hs
  free _ d _ _ _ hs := by cases d <;> exact hs
  late _ d _ _ _ hs := by cases d <;> exact hs
  timeout _ d id t _ _ hs := lineFollows_timeOut d id t hs

/-- Settles O57: the line is written with its two registers in one operation, which every change of them goes through. -/
theorem stepKeepsInterruptLine : Obligations.StepKeepsInterruptLine := by
  unfold Obligations.StepKeepsInterruptLine
  exact fun _ _ hs e => lineFollows_kept.kept.step hs e

end Sys2Proof.Proofs
end

section
/-!
The device state and the setup read at every step (R189, R191, R195, R198): what becomes of the trackers is that entries
are freed, re-issued to their own owner, or QUARANTINED.
-/
namespace Sys2Proof.Proofs
open Sys2Proof.Machine

/-! ## Entries that only fall away -/

/-- A tracker entry after an event that issues nothing: as it was, FREE, QUARANTINED without its owner, or ISSUED still to
its own owner. -/
inductive Subsides : TrackerEntry → TrackerEntry → Prop
  | same (e : TrackerEntry) : Subsides e e
  | freed (e : TrackerEntry) : Subsides e .free
  | quarantined (t u : Transaction) : Subsides (.issued t) (.quarantined u)
  | kept (t u : Transaction) (h : u.owner = t.owner) : Subsides (.issued t) (.issued u)

/-- Every entry of both trackers subsides. -/
structure PortSubsides (s t : State) : Prop where
  reads : ∀ j : Fin Config.readEntries, Subsides s.reads[j] t.reads[j]
  writes : ∀ j : Fin Config.writeEntries, Subsides s.writes[j] t.writes[j]

theorem Subsides.issued_owner {a b : TrackerEntry} (h : Subsides a b) {u : Transaction} (hb : b = .issued u) :
    ∃ t, a = .issued t ∧ t.owner = u.owner := by
  cases h with
  | same => exact ⟨u, hb, rfl⟩
  | freed => cases hb
  | quarantined => cases hb
  | kept t v h => cases hb; exact ⟨t, rfl, h.symm⟩

theorem Subsides.ne_free {a b : TrackerEntry} (h : Subsides a b) (hb : b ≠ .free) : a ≠ .free := by
  cases h with
  | same => exact hb
  | freed => exact absurd rfl hb
  | quarantined => nofun
  | kept => nofun

theorem subsides_set {n : Nat} {v : Vector TrackerEntry n} {j : Fin n} {x : TrackerEntry} (h : Subsides v[j] x) (k : Fin n) :
    Subsides v[k] (v.set j x)[k] := by
  rw [get_set]
  split
  · next e => exact e ▸ h
  · exact .same _

/-- Writing one entry so that it subsides. -/
theorem portSubsides_setTracker {s : State} {d : Direction} {id : Nat} {e x : TrackerEntry}
    (he : s.trackerEntry d id = some e) (h : Subsides e x) : PortSubsides s (s.setTracker d id x) := by
  cases d with
  | read =>
    obtain ⟨j, rfl, rfl⟩ := readEntry_some he
    rw [setTracker_read_fin]
    exact ⟨fun k => subsides_set h k, fun _ => .same _⟩
  | write =>
    obtain ⟨j, rfl, rfl⟩ := writeEntry_some he
    rw [setTracker_write_fin]
    exact ⟨fun _ => .same _, fun k => subsides_set h k⟩

/-! ## The setup read in its own moment -/

/-- Where the device state stays and entries only fall away but none is QUARANTINED in STARTING, the setup read keeps its
moment. -/
theorem startFits_of_subsides {s t : State} (hs : s.startFits) (h : PortSubsides s t) (hd : t.device = s.device)
    (hq : s.device = .starting → ∀ j : Fin Config.readEntries, ∀ u, t.reads[j] ≠ .quarantined u) : t.startFits where
  off ho := by
    obtain ⟨hreads, hwrites⟩ := hs.off (hd ▸ ho)
    exact ⟨fun j => by_contra fun hb => (h.reads j).ne_free hb (hreads j),
      fun j => by_contra fun hb => (h.writes j).ne_free hb (hwrites j)⟩
  writes ho j := by_contra fun hb => (h.writes j).ne_free hb (hs.writes (hd ▸ ho) j)
  reads ho j hb := by
    obtain ⟨u, hu⟩ : ∃ u, t.reads[j] = .issued u := by
      cases e : t.reads[j] with
      | free => exact absurd e hb
      | issued u => exact ⟨u, rfl⟩
      | quarantined u => exact absurd e (hq (hd ▸ ho) j u)
    obtain ⟨v, hv, hown⟩ := (h.reads j).issued_owner hu
    obtain ⟨w, hw, hstart⟩ := hs.reads (hd ▸ ho) j (by rw [hv]; nofun)
    obtain rfl : v = w := by rw [hv] at hw; exact TrackerEntry.issued.inj hw
    exact ⟨u, hu, hown ▸ hstart⟩
  one ho j k hj hk := hs.one (hd ▸ ho) j k ((h.reads j).ne_free hj) ((h.reads k).ne_free hk)
  later hstart hreset j u hu hown := by
    obtain ⟨v, hv, e⟩ := (h.reads j).issued_owner hu
    exact hs.later (hd ▸ hstart) (hd ▸ hreset) j v hv (e.trans hown)

/-- No entry waits for the setup read: what startFits asks outside OFF and STARTING. -/
theorem startFits_of_later {t : State} (hd : t.device ≠ .off) (hstart : t.device ≠ .starting)
    (h : ∀ (j : Fin Config.readEntries) u, t.reads[j] = .issued u → u.owner ≠ some .deviceStart) : t.startFits where
  off ho := absurd ho hd
  writes ho := absurd ho hstart
  reads ho := absurd ho hstart
  one ho := absurd ho hstart
  later _ _ := h

theorem startFits_of_resetting {t : State} (hd : t.device = .resetting) : t.startFits where
  off ho := by rw [hd] at ho; cases ho
  writes ho := by rw [hd] at ho; cases ho
  reads ho := by rw [hd] at ho; cases ho
  one ho := by rw [hd] at ho; cases ho
  later _ ho := absurd hd ho

/-- In STARTING the one entry that is not FREE is the setup read's. -/
theorem starting_entry {s : State} (hs : s.startFits) (hd : s.device = .starting) {d : Direction} {id : Nat}
    {t : Transaction} (he : s.trackerEntry d id = some (.issued t)) :
    t.owner = some .deviceStart ∧ ∃ j : Fin Config.readEntries, d = .read ∧ id = j ∧ ∀ k, k ≠ j → s.reads[k] = .free := by
  cases d with
  | write =>
    obtain ⟨j, -, e⟩ := writeEntry_some he
    have := hs.writes hd j
    rw [e] at this
    cases this
  | read =>
    obtain ⟨j, rfl, e⟩ := readEntry_some he
    have hj : s.reads[j] ≠ .free := by rw [e]; nofun
    obtain ⟨u, hu, ho⟩ := hs.reads hd j hj
    obtain rfl : t = u := by rw [e] at hu; exact TrackerEntry.issued.inj hu
    exact ⟨ho, j, rfl, rfl, fun k hk => by_contra fun hb => hk (hs.one hd k j hb hj)⟩

/-- A response outside RESETTING takes the setup read away, if it was the one: none is left awaited. -/
theorem no_setupRead_of_freed {s : State} (hs : s.startFits) {d : Direction} {id : Nat} {t : Transaction}
    (he : s.trackerEntry d id = some (.issued t)) (hd : s.device ≠ .resetting) {x : TrackerEntry}
    (hx : ∀ u, x ≠ .issued u) (j : Fin Config.readEntries) (u : Transaction)
    (hu : (s.setTracker d id x).reads[j] = .issued u) : u.owner ≠ some .deviceStart := by
  by_cases hstart : s.device = .starting
  · obtain ⟨-, k, rfl, rfl, hk⟩ := starting_entry hs hstart he
    rw [setTracker_read_fin] at hu
    dsimp only at hu
    rw [get_set] at hu
    split at hu
    · exact absurd hu (hx u)
    · next hne => rw [hk j hne] at hu; cases hu
  · cases d with
    | write => exact hs.later hstart hd j u hu
    | read =>
      obtain ⟨k, rfl, -⟩ := readEntry_some he
      rw [setTracker_read_fin] at hu
      dsimp only at hu
      rw [get_set] at hu
      split at hu
      · exact absurd hu (hx u)
      · exact hs.later hstart hd j u hu

/-! ## The two together -/

/-- The device state and what goes with it, and the setup read in its moment. -/
def DeviceKept (s : State) : Prop := s.deviceFits ∧ s.startFits


theorem deviceKept_blind (s : State) : DeviceKept s ↔ DeviceKept (ends s) :=
  ⟨fun ⟨⟨a, b, c, d⟩, ⟨f, g, h, i, j⟩⟩ => ⟨⟨a, b, c, d⟩, ⟨f, g, h, i, j⟩⟩,
    fun ⟨⟨a, b, c, d⟩, ⟨f, g, h, i, j⟩⟩ => ⟨⟨a, b, c, d⟩, ⟨f, g, h, i, j⟩⟩⟩

theorem deviceKept_of_ends {s t : State} (e : ends t = ends s) (hs : DeviceKept s) : DeviceKept t :=
  (deviceKept_blind t).mpr (e ▸ (deviceKept_blind s).mp hs)

theorem starting_no_quarantined {s : State} (hs : s.startFits) (hd : s.device = .starting) (j : Fin Config.readEntries)
    (u : Transaction) : s.reads[j] ≠ .quarantined u := by
  intro e
  obtain ⟨v, hv, -⟩ := hs.reads hd j (by rw [e]; nofun)
  rw [e] at hv
  cases hv

/-- Where the device state and its registers stay, entries only fall away, no more are quarantined, and none is QUARANTINED
in STARTING, the whole is kept. -/
theorem deviceKept_of_subsides {s t : State} (hs : DeviceKept s) (h : PortSubsides s t) (hd : t.device = s.device)
    (hc : t.cause = s.cause) (hr : t.softReset = s.softReset) (hn : t.quarantine ≤ s.quarantine)
    (hq : s.device = .starting → ∀ j : Fin Config.readEntries, ∀ u, t.reads[j] ≠ .quarantined u) : DeviceKept t := by
  refine ⟨⟨?_, ?_, ?_, ?_⟩, startFits_of_subsides hs.2 h hd hq⟩
  · rw [hr, hd]; exact hs.1.softReset
  · rw [hc, hd]; exact hs.1.cause
  · rw [hc, hd]; exact hs.1.faulted
  · rw [hd]; exact fun hf => hn.trans (hs.1.quarantine hf)

/-- What `DeviceKept` speaks of. -/
def devicePort (s : State) : DeviceState × FaultCause × Bool × Nat × Vector TrackerEntry Config.readEntries
    × Vector TrackerEntry Config.writeEntries :=
  (s.device, s.cause, s.softReset, s.quarantine, s.reads, s.writes)

theorem deviceKept_of_port {s t : State} (hs : DeviceKept s) (e : devicePort t = devicePort s) : DeviceKept t := by
  simp only [devicePort, Prod.mk.injEq] at e
  obtain ⟨hd, hc, hr, hq, hreads, hwrites⟩ := e
  refine deviceKept_of_subsides hs ⟨fun j => hreads ▸ .same _, fun j => hwrites ▸ .same _⟩ hd hc hr hq.le fun h j u => ?_
  rw [hreads]
  exact starting_no_quarantined hs.2 h j u

/-- In FAULTED with a cause the registers fit. -/
theorem deviceFits_faulted {t : State} (hd : t.device = .faulted) (hc : t.cause ≠ .none) (hr : t.softReset = false) :
    t.deviceFits where
  softReset := by rw [hr, hd]; decide
  cause _ := .inl hd
  faulted _ := hc
  quarantine hf := absurd hd hf

theorem softReset_eq_false {s : State} (hs : s.deviceFits) (hd : s.device ≠ .resetting) : s.softReset = false := by
  rw [Bool.eq_false_iff]
  exact fun h => hd (hs.softReset.mp h)

theorem cause_eq_none {s : State} (hs : s.deviceFits) (hf : s.device ≠ .faulted) (hd : s.device ≠ .resetting) :
    s.cause = .none :=
  by_contra fun h => (hs.cause h).elim hf hd

/-- Freed entries are never QUARANTINED ones. -/
theorem not_quarantined_setTracker {s : State} {d : Direction} {id : Nat} {x e : TrackerEntry}
    (he : s.trackerEntry d id = some e) (hx : ∀ u, x ≠ .quarantined u) {j : Fin Config.readEntries}
    (hs : ∀ u, s.reads[j] ≠ .quarantined u) (u : Transaction) : (s.setTracker d id x).reads[j] ≠ .quarantined u := by
  cases d with
  | write => exact hs u
  | read =>
    obtain ⟨k, rfl, -⟩ := readEntry_some he
    rw [setTracker_read_fin]
    dsimp only
    rw [get_set]
    split
    · exact hx u
    · exact hs u

theorem deviceKept_issueRead {s : State} {k : TransactionKind} {o : Owner} {a : Addr} {n ms : Nat}
    (hd : s.device = .running ∨ s.device = .stopping) (ho : o ≠ .deviceStart) (hs : DeviceKept s) :
    DeviceKept (s.issueRead k o a n ms) := by
  unfold State.issueRead
  split
  · next j _ =>
    refine ⟨⟨hs.1.softReset, hs.1.cause, hs.1.faulted, hs.1.quarantine⟩, ?_⟩
    have hoff : s.device ≠ .off ∧ s.device ≠ .starting ∧ s.device ≠ .resetting := by
      rcases hd with h | h <;> rw [h] <;> decide
    refine startFits_of_later hoff.1 hoff.2.1 fun l u hu hown => ?_
    dsimp only at hu
    rw [get_set] at hu
    split at hu
    · cases hu
      exact ho (Option.some.inj hown)
    · exact hs.2.later hoff.2.1 hoff.2.2 l u hu hown
  · exact hs

theorem deviceKept_issueWrite {s : State} {k : TransactionKind} {o : Owner} {a : Addr} {l : List Byte}
    (hd : s.device = .running ∨ s.device = .stopping) (hs : DeviceKept s) : DeviceKept (s.issueWrite k o a l) := by
  unfold State.issueWrite
  split
  · have hoff : s.device ≠ .off ∧ s.device ≠ .starting ∧ s.device ≠ .resetting := by
      rcases hd with h | h <;> rw [h] <;> decide
    exact ⟨⟨hs.1.softReset, hs.1.cause, hs.1.faulted, hs.1.quarantine⟩,
      startFits_of_later hoff.1 hoff.2.1 (hs.2.later hoff.2.1 hoff.2.2)⟩
  · exact hs

/-- The setup read is issued from an idle Memory Port, or the device faults with nothing issued (R195, R132). -/
theorem deviceKept_beginStart {s : State} (hd : s.device = .off) (hs : DeviceKept s) : DeviceKept s.beginStart := by
  have hreset : s.device ≠ .resetting := by rw [hd]; decide
  have hsoft := softReset_eq_false hs.1 hreset
  have hcause := cause_eq_none hs.1 (by rw [hd]; decide) hreset
  have hq := hs.1.quarantine (by rw [hd]; decide)
  obtain ⟨hreads, hwrites⟩ := hs.2.off hd
  unfold State.beginStart
  dsimp only
  split
  · rw [State.issueRead]
    rw [lowestFree_eq_some (j := 0) ⟨hreads 0, fun k hk => absurd hk (Fin.not_lt_zero k)⟩]
    have only : ∀ (x : TrackerEntry) (j : Fin Config.readEntries), (s.reads.set (0 : Fin Config.readEntries) x)[j] ≠ .free →
        j = 0 := by
      intro x j hj
      rw [get_set] at hj
      by_contra hne
      rw [if_neg hne] at hj
      exact hj (hreads j)
    refine ⟨⟨by simp [hsoft], by simp [hcause], nofun, fun _ => hq⟩, ⟨nofun, fun _ => hwrites, fun _ j hj => ?_, ?_, ?_⟩⟩
    · obtain rfl := only _ j hj
      exact ⟨_, get_set .., rfl⟩
    · exact fun _ j k hj hk => (only _ j hj).trans (only _ k hk).symm
    · exact fun h => absurd rfl h
  · have e : ends (({ s with device := .starting, enableDropped := false } : State).enterFaulted .setupInvalid)
        = ends (({ s with device := .starting, enableDropped := false } : State).withFault .setupInvalid) :=
      ends_of_outside (outside_enterFaulted (by simp) _)
    refine deviceKept_of_ends e ⟨deviceFits_faulted rfl (by simp [State.withFault]) hsoft, ?_⟩
    refine startFits_of_later (by simp [State.withFault]) (by simp [State.withFault]) fun j u hu => ?_
    exact absurd ((hreads j).symm.trans hu) (by simp)

theorem deviceKept_timeOut {s : State} {d : Direction} {id : Nat} {t : Transaction}
    (he : s.trackerEntry d id = some (.issued t)) (hd : s.device ≠ .resetting) (hs : DeviceKept s) :
    DeviceKept (s.timeOut d id t) := by
  have h := timeOut_timedOut s d id t
  generalize s.timeOut d id t = v at h
  have hsub : PortSubsides s v := by
    have k := portSubsides_setTracker he (.quarantined t { t with owner := none })
    exact ⟨fun j => h.reads ▸ k.reads j, fun j => h.writes ▸ k.writes j⟩
  have hsoft : v.softReset = false := h.softReset.trans (softReset_eq_false hs.1 hd)
  rcases h.device with ⟨hdev, hcause, hwhy⟩ | ⟨hdev, hcause⟩
  · have hstart : s.device ≠ .starting := fun hstart =>
      hwhy.elim (fun hf => by rw [hf] at hstart; cases hstart) fun hno => hno.2 (starting_entry hs.2 hstart he).1
    refine ⟨⟨?_, ?_, ?_, fun hf => ?_⟩, startFits_of_subsides hs.2 hsub hdev fun h => absurd h hstart⟩
    · rw [hsoft, hdev]; simp [hd]
    · rw [hcause, hdev]; exact hs.1.cause
    · rw [hcause, hdev]; exact hs.1.faulted
    · rw [h.quarantine]
      have := (hwhy.resolve_left (hdev ▸ hf)).1
      omega
  · refine ⟨deviceFits_faulted hdev hcause hsoft, ?_⟩
    refine startFits_of_later (by rw [hdev]; decide) (by rw [hdev]; decide) fun j u hu => ?_
    rw [h.reads] at hu
    exact no_setupRead_of_freed hs.2 he hd (by simp) j u hu

theorem reset_allFree : State.reset.allFree :=
  ⟨fun j => by simp [State.reset], fun j => by simp [State.reset]⟩

theorem deviceKept_reset : DeviceKept State.reset :=
  ⟨⟨by decide, fun h => absurd rfl h, nofun, fun _ => Nat.zero_le _⟩,
    ⟨fun _ => reset_allFree, nofun, nofun, nofun, fun _ _ j t h => by rw [reset_allFree.1 j] at h; cases h⟩⟩

/-- The device state and the setup read through every operation. -/
theorem deviceKept_kept : KeptOutside DeviceKept where
  blind := deviceKept_blind
  irq _ _ _ hs := deviceKept_of_port hs rfl
  enable _ _ _ hs := deviceKept_of_port hs rfl
  address _ _ hs := deviceKept_of_port hs rfl
  tick _ _ hs := deviceKept_of_port hs rfl
  completion _ _ hs := deviceKept_of_port hs rfl
  coalescing _ _ _ hs := deviceKept_of_port hs rfl
  accepted _ _ hs := deviceKept_of_port hs rfl
  rotation _ _ _ hs := deviceKept_of_port hs rfl
  reset _ := deviceKept_of_port deviceKept_reset rfl
  stopped _ := deviceKept_of_port deviceKept_reset rfl
  faulted s d id t c hc he hd hs := by
    refine ⟨deviceFits_faulted rfl hc ?_, startFits_of_later (by simp) (by simp) fun j u hu => ?_⟩
    · simpa using softReset_eq_false hs.1 hd
    · exact no_setupRead_of_freed hs.2 he hd (by simp) j u hu
  stopping s hd hs := by
    have hreset : s.device ≠ .resetting := by rw [hd]; decide
    refine ⟨⟨?_, ?_, nofun, fun _ => hs.1.quarantine (by rw [hd]; decide)⟩, ?_⟩
    · simp [softReset_eq_false hs.1 hreset]
    · exact fun h => absurd (cause_eq_none hs.1 (by rw [hd]; decide) hreset) h
    · exact startFits_of_later (by simp) (by simp) (hs.2.later (by rw [hd]; decide) hreset)
  softReset s _ _ := ⟨⟨by simp, fun _ => .inr rfl, nofun, fun _ => Nat.zero_le _⟩, startFits_of_resetting rfl⟩
  start _ hd hs := deviceKept_beginStart hd hs
  running s id t he ho hd hs := by
    have hstart : s.device = .starting := by
      by_contra hne
      obtain ⟨j, -, e⟩ := readEntry_some he
      exact hs.2.later hne hd j t e ho
    refine ⟨⟨?_, ?_, nofun, ?_⟩, startFits_of_later (by simp) (by simp) fun j u hu => ?_⟩
    · simpa using softReset_eq_false hs.1 hd
    · exact fun h => absurd (cause_eq_none hs.1 (by rw [hstart]; decide) hd) h
    · exact fun _ => hs.1.quarantine (by rw [hstart]; decide)
    · exact no_setupRead_of_freed (d := .read) hs.2 he hd (by simp) j u hu
  read _ _ _ _ _ _ hd ho hs := deviceKept_issueRead hd ho hs
  write _ _ _ _ _ hd hs := deviceKept_issueWrite hd hs
  collect s id t l he hs :=
    deviceKept_of_subsides hs (portSubsides_setTracker (d := .read) he (.kept _ _ rfl)) rfl rfl rfl le_rfl
      fun hd _ u => not_quarantined_setTracker (d := .read) he (by simp) (starting_no_quarantined hs.2 hd _) u
  free s d id t he hs :=
    deviceKept_of_subsides hs (portSubsides_setTracker he (.freed _)) (by simp) (by simp) (by simp) (by simp)
      fun hd _ u => not_quarantined_setTracker he (by simp) (starting_no_quarantined hs.2 hd _) u
  late s d id t he hs :=
    deviceKept_of_subsides hs (by
        have k := portSubsides_setTracker he (.freed _)
        exact ⟨k.reads, k.writes⟩) (by simp [State.lateFreed]) (by simp [State.lateFreed]) (by simp [State.lateFreed])
      (Nat.sub_le _ _)
      fun hd _ u => not_quarantined_setTracker he (by simp) (starting_no_quarantined hs.2 hd _) u
  timeout _ _ _ _ he hd hs := deviceKept_timeOut he hd hs

/-- Settles O58: the two are kept together, since a fault of the setup read needs both. -/
theorem stepKeepsDeviceState : Obligations.StepKeepsDeviceState := by
  unfold Obligations.StepKeepsDeviceState
  exact fun _ _ hs hstart e => deviceKept_kept.kept.step ⟨hs, hstart⟩ e

end Sys2Proof.Proofs
end

section
/-! The owners of issued transactions and the quarantine count at every step (R187, R188, R191). -/
namespace Sys2Proof.Proofs
open Sys2Proof.Machine

/-! ## Owners -/

/-- Outside RESETTING an event after which entries have only fallen away leaves every ISSUED one its owner. -/
theorem ownersFit_of_subsides {s t : State} (hs : s.ownersFit) (h : PortSubsides s t) (hd : s.device ≠ .resetting) :
    t.ownersFit := by
  intro _
  obtain ⟨hreads, hwrites⟩ := hs hd
  constructor
  · intro j u hu
    obtain ⟨v, hv, ho⟩ := (h.reads j).issued_owner hu
    exact ho ▸ hreads j v hv
  · intro j u hu
    obtain ⟨v, hv, ho⟩ := (h.writes j).issued_owner hu
    exact ho ▸ hwrites j v hv

theorem ownersFit_of_resetting {t : State} (hd : t.device = .resetting) : t.ownersFit := fun h => absurd hd h

theorem ownersFit_of_allFree {t : State} (h : t.allFree) : t.ownersFit := fun _ =>
  ⟨fun j _ hu => absurd ((h.1 j).symm.trans hu) (by simp), fun j _ hu => absurd ((h.2 j).symm.trans hu) (by simp)⟩

/-- Entries fall away where the device state stays RESETTING or is not, and the owners fit. -/
theorem ownersFit_of_device {s t : State} (hs : s.ownersFit) (h : PortSubsides s t) (hd : t.device = s.device) :
    t.ownersFit := by
  by_cases hr : s.device = .resetting
  · exact ownersFit_of_resetting (hd.trans hr)
  · exact ownersFit_of_subsides hs h hr

theorem ownersFit_issueRead {s : State} {k : TransactionKind} {o : Owner} {a : Addr} {n ms : Nat} (hs : s.ownersFit) :
    (s.issueRead k o a n ms).ownersFit := by
  unfold State.issueRead
  split
  · intro hd
    refine ⟨fun j u hu => ?_, (hs hd).2⟩
    dsimp only at hu
    rw [get_set] at hu
    split at hu
    · cases hu; simp
    · exact (hs hd).1 j u hu
  · exact hs

theorem ownersFit_issueWrite {s : State} {k : TransactionKind} {o : Owner} {a : Addr} {l : List Byte} (hs : s.ownersFit) :
    (s.issueWrite k o a l).ownersFit := by
  unfold State.issueWrite
  split
  · intro hd
    refine ⟨(hs hd).1, fun j u hu => ?_⟩
    dsimp only at hu
    rw [get_set] at hu
    split at hu
    · cases hu; simp
    · exact (hs hd).2 j u hu
  · exact hs

theorem ownersFit_enterFaulted {s : State} (hd : s.device ≠ .resetting) (c : FaultCause) (hs : s.ownersFit) :
    (s.enterFaulted c).ownersFit := by
  obtain ⟨hreads, hwrites, -⟩ := trackers_enterFaulted s c
  intro _
  rw [hreads, hwrites]
  exact hs hd

theorem ownersFit_kept : KeptOutside State.ownersFit where
  blind _ := Iff.rfl
  irq _ _ _ hs := hs
  enable _ _ _ hs := hs
  address _ _ hs := hs
  tick _ _ hs := hs
  completion _ _ hs := hs
  coalescing _ _ _ hs := hs
  accepted _ _ hs := hs
  rotation _ _ _ hs := hs
  reset _ := ownersFit_of_allFree reset_allFree
  stopped _ := ownersFit_of_allFree reset_allFree
  faulted s d id t c _ he hd hs := by
    have h := portSubsides_setTracker he (.freed _)
    exact ownersFit_of_subsides hs ⟨h.reads, h.writes⟩ hd
  stopping s hd hs := ownersFit_of_subsides hs ⟨fun _ => .same _, fun _ => .same _⟩ (by rw [hd]; decide)
  softReset _ _ _ := ownersFit_of_resetting rfl
  start s hd hs := by
    have hstart : ({ s with device := .starting, enableDropped := false } : State).ownersFit :=
      ownersFit_of_subsides hs ⟨fun _ => .same _, fun _ => .same _⟩ (by rw [hd]; decide)
    unfold State.beginStart
    dsimp only
    split
    · exact ownersFit_issueRead hstart
    · exact ownersFit_enterFaulted (by simp) _ hstart
  running s id t he _ hd hs := by
    have h := portSubsides_setTracker (d := .read) he (.freed _)
    exact ownersFit_of_subsides hs ⟨h.reads, h.writes⟩ hd
  read _ _ _ _ _ _ _ _ hs := ownersFit_issueRead hs
  write _ _ _ _ _ _ hs := ownersFit_issueWrite hs
  collect _ _ _ _ he hs := ownersFit_of_device hs (portSubsides_setTracker (d := .read) he (.kept _ _ rfl)) rfl
  free _ _ _ _ he hs := ownersFit_of_device hs (portSubsides_setTracker he (.freed _)) (by simp)
  late s d id t he hs := by
    have h := portSubsides_setTracker he (.freed _)
    exact ownersFit_of_device hs ⟨h.reads, h.writes⟩ (by simp [State.lateFreed])
  timeout s d id t he hd hs := by
    have h := timeOut_timedOut s d id t
    have k := portSubsides_setTracker he (.quarantined t { t with owner := none })
    exact ownersFit_of_subsides hs ⟨fun j => h.reads ▸ k.reads j, fun j => h.writes ▸ k.writes j⟩ hd

/-! ## The quarantine count -/

/-- The QUARANTINED entries of a tracker after one entry has been written. -/
theorem countP_set {n : Nat} (v : Vector TrackerEntry n) (j : Fin n) (x : TrackerEntry) :
    (v.set j x).toList.countP (·.isQuarantined) + (if v[j].isQuarantined then 1 else 0)
      = v.toList.countP (·.isQuarantined) + (if x.isQuarantined then 1 else 0) := by
  have hj : j.val < v.toList.length := by simp
  have hpos : (if v[j].isQuarantined then 1 else 0) ≤ v.toList.countP (·.isQuarantined) := by
    split
    · next h => exact List.countP_pos_iff.mpr ⟨v[j], by simp, h⟩
    · exact Nat.zero_le _
  rw [Vector.toList_set, List.countP_set hj]
  simp only [Vector.getElem_toList, Fin.getElem_fin] at hpos ⊢
  omega

/-- The QUARANTINED entries after one has been written: the one before counted out, the new one counted in. -/
theorem quarantined_setTracker {s : State} {d : Direction} {id : Nat} {e : TrackerEntry}
    (he : s.trackerEntry d id = some e) (x : TrackerEntry) :
    (s.setTracker d id x).quarantined + (if e.isQuarantined then 1 else 0)
      = s.quarantined + (if x.isQuarantined then 1 else 0) := by
  cases d with
  | read =>
    obtain ⟨j, rfl, rfl⟩ := readEntry_some he
    rw [setTracker_read_fin]
    have := countP_set s.reads j x
    simp only [State.quarantined]
    omega
  | write =>
    obtain ⟨j, rfl, rfl⟩ := writeEntry_some he
    rw [setTracker_write_fin]
    have := countP_set s.writes j x
    simp only [State.quarantined]
    omega

/-- An entry that is not QUARANTINED is written with one that is not: the count stays. -/
theorem quarantineCounts_setTracker {s : State} {d : Direction} {id : Nat} {e x : TrackerEntry}
    (he : s.trackerEntry d id = some e) (hout : e.isQuarantined = false) (hin : x.isQuarantined = false)
    (hs : s.quarantineCounts) : (s.setTracker d id x).quarantineCounts := by
  have h := quarantined_setTracker he x
  rw [hout, hin] at h
  unfold State.quarantineCounts at hs ⊢
  rw [State.setTracker_quarantine, hs]
  simpa using h.symm

theorem quarantineCounts_issueRead {s : State} {k : TransactionKind} {o : Owner} {a : Addr} {n ms : Nat}
    (hs : s.quarantineCounts) : (s.issueRead k o a n ms).quarantineCounts := by
  unfold State.issueRead
  split
  · next j hj =>
    have h := quarantineCounts_setTracker (d := .read) (x := .issued ⟨k, some o, a, n, s.timeBase, ms, []⟩)
      (s.readEntry_fin j) (by rw [free_of_lowestFree hj]; rfl) rfl hs
    rw [setTracker_read_fin] at h
    exact h
  · exact hs

theorem quarantineCounts_issueWrite {s : State} {k : TransactionKind} {o : Owner} {a : Addr} {l : List Byte}
    (hs : s.quarantineCounts) : (s.issueWrite k o a l).quarantineCounts := by
  unfold State.issueWrite
  split
  · next j hj =>
    have h := quarantineCounts_setTracker (d := .write)
      (x := .issued ⟨k, some o, a, l.length, s.timeBase, s.responseTimeout, []⟩)
      (s.writeEntry_fin j) (by rw [free_of_lowestFree hj]; rfl) rfl hs
    rw [setTracker_write_fin] at h
    exact h
  · exact hs

/-- No entry stays QUARANTINED as RESETTING begins (R191). -/
theorem countP_unquarantined {n : Nat} (v : Vector TrackerEntry n) :
    (v.map TrackerEntry.unquarantined).toList.countP (·.isQuarantined) = 0 := by
  rw [List.countP_eq_zero]
  intro a ha
  rw [Vector.toList_map, List.mem_map] at ha
  obtain ⟨b, -, rfl⟩ := ha
  cases b <;> simp [TrackerEntry.unquarantined, TrackerEntry.isQuarantined]

theorem quarantineCounts_reset : State.reset.quarantineCounts := by
  unfold State.quarantineCounts
  decide

theorem quarantineCounts_enterFaulted {s : State} (c : FaultCause) (hs : s.quarantineCounts) :
    (s.enterFaulted c).quarantineCounts := by
  obtain ⟨hreads, hwrites, hq⟩ := trackers_enterFaulted s c
  unfold State.quarantineCounts State.quarantined
  rw [hreads, hwrites, hq]
  exact hs

theorem quarantineCounts_kept : KeptOutside State.quarantineCounts where
  blind _ := Iff.rfl
  irq _ _ _ hs := hs
  enable _ _ _ hs := hs
  address _ _ hs := hs
  tick _ _ hs := hs
  completion _ _ hs := hs
  coalescing _ _ _ hs := hs
  accepted _ _ hs := hs
  rotation _ _ _ hs := hs
  reset _ := quarantineCounts_reset
  stopped _ := quarantineCounts_reset
  faulted s d id t c _ he _ hs := quarantineCounts_setTracker he rfl rfl hs
  stopping _ _ hs := hs
  softReset s _ _ := by
    unfold State.quarantineCounts State.quarantined
    rw [countP_unquarantined, countP_unquarantined]
  start s _ hs := by
    unfold State.beginStart
    dsimp only
    split
    · exact quarantineCounts_issueRead (s := { s with device := .starting, enableDropped := false }) hs
    · exact quarantineCounts_enterFaulted (s := { s with device := .starting, enableDropped := false }) _ hs
  running _ _ _ he _ _ hs := quarantineCounts_setTracker (d := .read) he rfl rfl hs
  read _ _ _ _ _ _ _ _ hs := quarantineCounts_issueRead hs
  write _ _ _ _ _ _ hs := quarantineCounts_issueWrite hs
  collect _ _ _ _ he hs := quarantineCounts_setTracker (d := .read) he rfl rfl hs
  free _ _ _ _ he hs := quarantineCounts_setTracker he rfl rfl hs
  late s d id t he hs := by
    have h := quarantined_setTracker he .free
    simp only [TrackerEntry.isQuarantined, if_true, Bool.false_eq_true, if_false] at h
    have hq : (s.lateFreed d id).quarantined = (s.setTracker d id .free).quarantined := rfl
    have hn : (s.lateFreed d id).quarantine = s.quarantine - 1 := rfl
    unfold State.quarantineCounts at hs ⊢
    rw [hq, hn, hs]
    omega
  timeout s d id t he _ hs := by
    have h := timeOut_timedOut s d id t
    have k := quarantined_setTracker he (.quarantined { t with owner := none })
    simp only [TrackerEntry.isQuarantined, if_true, Bool.false_eq_true, if_false] at k
    unfold State.quarantineCounts at hs ⊢
    rw [h.quarantine, hs]
    have e : (s.timeOut d id t).quarantined = (s.setTracker d id (.quarantined { t with owner := none })).quarantined := by
      unfold State.quarantined
      rw [h.reads, h.writes]
    omega

end Sys2Proof.Proofs
end

section
/-! The counts of the rings at every step (R135, R148). -/
namespace Sys2Proof.Proofs
open Sys2Proof.Machine

/-- The request rings and the completion ring. -/
def ringsOf (s : State) : Vector Ring 5 × CompletionRing := (s.rings, s.completion)

theorem ringsOf_on (i : StreamId) : QuietOn i ringsOf :=
  ⟨⟨fun _ _ _ => rfl, fun _ _ _ => rfl, fun _ _ => rfl, fun _ _ => rfl, fun _ _ _ _ => rfl⟩, fun _ _ => rfl⟩

theorem ringsOf_quiet : Quiet ringsOf := (ringsOf_on 0).toQuiet

theorem ringsBounded_of_eq {s t : State} (hs : s.ringsBounded) (e : ringsOf t = ringsOf s) : t.ringsBounded := by
  obtain ⟨hr, hc⟩ := Prod.mk.inj e
  constructor
  · rw [hr]; exact hs.requests
  · rw [hc]; exact hs.records

/-- One request ring is changed, and has no more pending requests than slots afterwards. -/
theorem ringsBounded_onRing {s : State} (hs : s.ringsBounded) {r : RingId} {f : Ring → Ring}
    (hf : (f s.rings[r]).pendingCount ≤ (f s.rings[r]).slots) : (s.onRing r f).ringsBounded where
  requests q := by
    by_cases h : q = r
    · rw [h, State.onRing_get]; exact hf
    · rw [State.onRing_get_ne s h]; exact hs.requests q
  records := hs.records

theorem ringsOf_lanesOff (s : State) : ringsOf s.lanesOff = ringsOf s :=
  foldl_keeps ringsOf _ (fun s i => (ringsOf_on i).laneOff s) _ _

theorem ringsOf_lanesOn (s : State) : ringsOf s.lanesOn = ringsOf s :=
  foldl_keeps ringsOf _ (fun s i => (ringsOf_on i).laneOn s) _ _

theorem ringsOf_enterFaulted (s : State) (c : FaultCause) : ringsOf (s.enterFaulted c) = ringsOf s := by
  unfold State.enterFaulted
  split
  · rfl
  · rw [ringsOf_lanesOff]; rfl

theorem ringsOf_issueRead (s : State) (k : TransactionKind) (o : Owner) (a : Addr) (n ms : Nat) :
    ringsOf (s.issueRead k o a n ms) = ringsOf s := by
  unfold State.issueRead; split <;> rfl

theorem ringsOf_issueWrite (s : State) (k : TransactionKind) (o : Owner) (a : Addr) (l : List Byte) :
    ringsOf (s.issueWrite k o a l) = ringsOf s := by
  unfold State.issueWrite; split <;> rfl

theorem ringsOf_setTracker (s : State) (d : Direction) (id : Nat) (e : TrackerEntry) :
    ringsOf (s.setTracker d id e) = ringsOf s := by
  cases d <;> rfl

theorem ringsOf_takeItem (i : StreamId) (s : State) (a : LaneItem) : ringsOf (s.takeItem i a) = ringsOf s := by
  cases a with
  | frameStart n id => exact (ringsOf_on i).takeFrameStart s n id
  | line n e px d => exact (ringsOf_on i).takeLine s _ e px d
  | frameEnd n c => exact (ringsOf_on i).takeFrameEnd s n c
  | headerError => rfl
  | linkUp => rfl
  | retrain => exact (ringsOf_on i).closeFrame s _
  | laneLoss => exact (ringsOf_on i).closeFrame s .linkLost

theorem ringsBounded_slotFails {s : State} (e : EntryId) (hs : s.ringsBounded) : (s.slotFails e).ringsBounded := by
  have hland : (s.onRing (ringOfEntry e) fun x => { x with inFlight := false }).ringsBounded :=
    ringsBounded_onRing hs (hs.requests _)
  unfold State.slotFails
  dsimp only
  split
  · exact ringsBounded_of_eq hland (ringsOf_enterFaulted _ _)
  · have hready := ringsBounded_of_eq hland (ringsOf_quiet.entryReady _ e (.unbound .fetchFault 0 0) true)
    exact ringsBounded_onRing hready (hready.requests _)

theorem ringsBounded_failOwner {s : State} (o : Option Owner) (hs : s.ringsBounded) : (s.failOwner o).ringsBounded := by
  match o with
  | none => exact hs
  | some .deviceStart => exact ringsBounded_of_eq hs (ringsOf_enterFaulted _ _)
  | some (.slot e) => exact ringsBounded_slotFails e hs
  | some (.load _) => exact ringsBounded_of_eq hs (ringsOf_quiet.burstFails s)
  | some (.capture i c) => exact ringsBounded_of_eq hs (ringsOf_quiet.writeFault s i c)
  | some (.completion _) => exact ringsBounded_of_eq hs (ringsOf_enterFaulted _ _)
  | some .statistics => exact ringsBounded_of_eq hs (ringsOf_quiet.complete s _ _)

theorem ringsBounded_timeOut {s : State} (d : Direction) (id : Nat) (t : Transaction) (hs : s.ringsBounded) :
    (s.timeOut d id t).ringsBounded := by
  have hq := ringsBounded_of_eq (t := (s.failOwner t.owner).quarantineEntry d id t)
    (ringsBounded_failOwner t.owner hs) (by cases d <;> rfl)
  unfold State.timeOut State.judgeQuarantine
  split
  · exact ringsBounded_of_eq hq (ringsOf_enterFaulted _ _)
  · exact hq

theorem ringsBounded_reset : State.reset.ringsBounded := ⟨by decide, by decide⟩

/-- A grant takes one pending request, of which there is one (R137, R139). -/
theorem ringsBounded_grantFetch {s : State} {r : RingId} (hm : s.mayFetch r = true) (hs : s.ringsBounded) :
    (s.grantFetch r).ringsBounded := by
  have hpos : 0 < s.rings[r].pendingCount := by
    simp only [State.mayFetch, Bool.and_eq_true, decide_eq_true_eq] at hm
    exact hm.1.1.1.2
  have hle := hs.requests r
  unfold State.grantFetch
  split
  · next e _ =>
    refine ringsBounded_of_eq ?_ (ringsOf_issueRead ..)
    refine ringsBounded_of_eq (s := s.onRing r fun x => { x with fetched := x.fetched + 1, inFlight := true }) ?_ rfl
    refine ringsBounded_onRing hs ?_
    simp only [Ring.pendingCount] at hpos hle ⊢
    bv_omega
  · exact hs

/-- The counts of the rings through every operation. -/
theorem ringsBounded_kept : Kept State.ringsBounded where
  still s m e hs := ringsBounded_of_eq hs (congrArg ringsOf e :)
  irq _ _ _ hs := ringsBounded_of_eq hs rfl
  enable _ _ _ hs := ringsBounded_of_eq hs rfl
  address _ _ hs := ringsBounded_of_eq hs rfl
  tick _ _ hs := ringsBounded_of_eq hs rfl
  reset _ := ringsBounded_of_eq ringsBounded_reset rfl
  stopped _ := ringsBounded_of_eq ringsBounded_reset rfl
  faulted s d id t c _ _ _ hs :=
    ringsBounded_of_eq hs ((ringsOf_enterFaulted _ c).trans (ringsOf_setTracker s d id .free))
  fetchFaulted s id t r c _ _ _ hs := by
    refine ringsBounded_of_eq ?_ (ringsOf_enterFaulted _ c)
    exact ringsBounded_onRing (s := s.setTracker .read id .free) (ringsBounded_of_eq hs rfl) (hs.requests r)
  stopping s _ hs := ringsBounded_of_eq hs (ringsOf_lanesOff _)
  softReset s _ hs := ringsBounded_of_eq hs (ringsOf_lanesOff _)
  start s _ hs := by
    unfold State.beginStart
    dsimp only
    split
    · exact ringsBounded_of_eq hs (ringsOf_issueRead { s with device := .starting, enableDropped := false } ..)
    · exact ringsBounded_of_eq hs (ringsOf_enterFaulted { s with device := .starting, enableDropped := false } _)
  setup s id t v _ _ _ hs := by
    refine ringsBounded_of_eq (s := (s.setTracker .read id .free).takeSetup v) ?_ (ringsOf_lanesOn _)
    have hring := ringsBounded_onRing hs (r := 0) (f := fun _ => ⟨.active, v.adminBase, v.adminSlots, 0, 0, false⟩)
      (by simp [Ring.pendingCount])
    exact ⟨hring.requests, by simp [State.takeSetup, CompletionRing.unread]⟩
  read s k o a n ms _ _ hs := ringsBounded_of_eq hs (ringsOf_issueRead ..)
  write s k o a l _ hs := ringsBounded_of_eq hs (ringsOf_issueWrite ..)
  turn _ _ hs := ringsBounded_of_eq hs rfl
  collect _ _ _ _ _ hs := ringsBounded_of_eq hs rfl
  free s d id _ _ hs := ringsBounded_of_eq hs (ringsOf_setTracker s d id .free)
  late s d id _ _ hs := ringsBounded_of_eq hs (ringsOf_setTracker s d id .free)
  timeout _ d id t _ _ hs := ringsBounded_timeOut d id t hs
  land s r hs := ringsBounded_onRing hs (hs.requests r)
  halt s r _ hs := ringsBounded_onRing hs (hs.requests r)
  active s r _ hs := ringsBounded_onRing hs (hs.requests r)
  skip s r _ hs := ringsBounded_onRing hs (by simp [Ring.pendingCount])
  create s r _ _ hs := ringsBounded_onRing hs (by simp [Ring.pendingCount])
  delete s r hs := ringsBounded_onRing hs (by simp [Ring.pendingCount, Ring.absent])
  produce s r c _ hc hs := ringsBounded_onRing hs hc
  consume s c hc hs := by
    refine ⟨hs.requests, ?_⟩
    have := hs.records
    simp only [CompletionRing.unread] at this hc ⊢
    bv_omega
  fetch _ _ hm hs := ringsBounded_grantFetch hm hs
  post s b hp hs := by
    refine ⟨hs.requests, ?_⟩
    have hlt : s.completion.unread < s.completion.slots := of_decide_eq_true hp
    simp only [CompletionRing.unread] at hlt ⊢
    bv_omega
  coalescing _ _ _ hs := ringsBounded_of_eq hs rfl
  lane s i w hs := by
    refine ringsBounded_of_eq hs ?_
    rw [foldl_keeps ringsOf _ (ringsOf_takeItem i)]
    exact (ringsOf_on i).laneStep s w
  frameStart s i n id _ hs := ringsBounded_of_eq hs ((ringsOf_on i).takeFrameStart s n id)
  line s i n e px d hs := ringsBounded_of_eq hs ((ringsOf_on i).takeLine s n e px d)
  frameEnd s i n c hs := ringsBounded_of_eq hs ((ringsOf_on i).takeFrameEnd s n c)
  close s i x hs := ringsBounded_of_eq hs ((ringsOf_on i).closeFrame s x)
  configure s i _ on hs := ringsBounded_of_eq hs ((ringsOf_on i).setLaneEnable _ on)
  stage s i t hs := ringsBounded_of_eq hs ((ringsOf_on i).stageDefects s t)

end Sys2Proof.Proofs
end

section
/-! Streams, their lanes and the device at every step (R59, R26, R45, R65). -/
namespace Sys2Proof.Proofs
open Sys2Proof.Machine

/-! ## One stream -/

/-- A stream that fits its lane, with `run` for a device in RUNNING, whatever frame it has in progress. -/
structure LaneFit (run : Prop) (x : StreamState) : Prop where
  lane : x.lane.fits
  off : x.lane.state = .off ↔ ¬(run ∧ x.laneEnable = true)
  enabled : x.laneEnable = true → x.active.isSome = true
  timer : x.gapTimer.isSome = x.frame.isSome

/-- A stream that fits its lane and has a frame in progress in RUN alone. -/
structure StreamFit (run : Prop) (x : StreamState) : Prop extends LaneFit run x where
  framing : x.frame.isSome = true → x.lane.state = .run

theorem streamFits_iff (s : State) (i : StreamId) : s.streamFits i ↔ StreamFit (s.device = .running) s.streams[i] :=
  ⟨fun ⟨a, b, c, d, e⟩ => ⟨⟨a, b, c, e⟩, d⟩, fun ⟨⟨a, b, c, e⟩, d⟩ => ⟨a, b, c, d, e⟩⟩

/-- What `StreamFit` looks at. -/
def laneView (x : StreamState) : Lane × Bool × Bool × Bool × Bool :=
  (x.lane, x.laneEnable, x.active.isSome, x.frame.isSome, x.gapTimer.isSome)

theorem laneView_of_core {x y : StreamState} (e : y.core = x.core) : laneView y = laneView x := by
  have hcore : ∀ z : StreamState, laneView z.core = laneView z := by
    intro z; simp [laneView, StreamState.core]
  rw [← hcore y, e, hcore x]

theorem LaneFit.of_view {run : Prop} {x y : StreamState} (h : LaneFit run x) (e : laneView y = laneView x) : LaneFit run y := by
  simp only [laneView, Prod.mk.injEq] at e
  obtain ⟨hlane, henable, hactive, hframe, htimer⟩ := e
  exact ⟨hlane ▸ h.lane, by rw [hlane, henable]; exact h.off, by rw [henable, hactive]; exact h.enabled,
    by rw [hframe, htimer]; exact h.timer⟩

theorem StreamFit.of_view {run : Prop} {x y : StreamState} (h : StreamFit run x) (e : laneView y = laneView x) :
    StreamFit run y := by
  refine ⟨h.toLaneFit.of_view e, ?_⟩
  simp only [laneView, Prod.mk.injEq] at e
  rw [e.1, e.2.2.2.1]
  exact h.framing

/-- With no frame in progress a lane that fits is a stream that fits. -/
theorem LaneFit.streamFit {run : Prop} {x : StreamState} (h : LaneFit run x) (hf : x.frame = none) : StreamFit run x :=
  ⟨h, by rw [hf]; nofun⟩

theorem laneOff_fits : Lane.off.fits :=
  ⟨by simp [Lane.off], by decide, fun _ => rfl, by decide, fun _ => rfl, nofun, nofun⟩

theorem searching_fits : Lane.searching.fits :=
  ⟨by simp [Lane.searching], by decide, fun _ => rfl, by decide, fun _ => rfl, nofun, nofun⟩

theorem aligned_fits : Lane.fits ⟨.aligned, 0, 0, .none⟩ :=
  ⟨by simp, by decide, fun _ => rfl, by decide, fun _ => rfl, nofun, nofun⟩

/-! ## Other streams, and the frame that closes -/

/-- What a stream keeps while requests and captures come and go. -/
def coreOf (k : StreamId) (s : State) : StreamState := s.streams[k].core

theorem coreOf_quiet (k : StreamId) : Quiet (coreOf k) where
  entry _ _ _ := rfl
  group _ _ _ := rfl
  pairing _ _ := rfl
  admin _ _ := rfl
  stream s i f h := by
    unfold coreOf State.onStream
    dsimp only
    rw [get_set]
    split
    · next e => rw [e, h]
    · rfl

theorem coreOf_other {i k : StreamId} (h : k ≠ i) : QuietOn i (coreOf k) where
  toQuiet := coreOf_quiet k
  own s f := by unfold coreOf; rw [State.onStream_get_ne s h]

/-- The close of a frame ends the frame and its timer, and leaves the rest of the stream's core (R46). -/
theorem coreOf_closeFrame {s : State} {i : StreamId} {f : Frame} (hf : s.streams[i].frame = some f) (x : Close) :
    coreOf i (s.closeFrame i x) = ({ s.streams[i] with frame := none, gapTimer := none } : StreamState).core := by
  have hend : coreOf i (s.onStream i fun x => { x with frame := none, gapTimer := none })
      = ({ s.streams[i] with frame := none, gapTimer := none } : StreamState).core := by
    unfold coreOf
    rw [State.onStream_get]
  unfold State.closeFrame
  rw [hf]
  dsimp only
  repeat' split
  all_goals simp only [(coreOf_quiet i).closeCapture, (coreOf_quiet i).bump, hend]

theorem closeFrame_view (s : State) (i : StreamId) (x : Close) (h : s.streams[i].gapTimer.isSome = s.streams[i].frame.isSome) :
    laneView (s.closeFrame i x).streams[i] = laneView { s.streams[i] with frame := none, gapTimer := none } := by
  cases hf : s.streams[i].frame with
  | some f => exact laneView_of_core (coreOf_closeFrame hf x)
  | none =>
    rw [hf] at h
    rw [State.closeFrame_none hf]
    simp only [laneView, hf, h, Option.isSome_none]

/-- A stream whose frame closes fits again, where its lane does. -/
theorem closeFrame_fit {run : Prop} {s : State} {i : StreamId} (x : Close) (h : LaneFit run s.streams[i]) :
    StreamFit run (s.closeFrame i x).streams[i] := by
  have e := closeFrame_view s i x h.timer
  refine StreamFit.of_view (x := { s.streams[i] with frame := none, gapTimer := none }) ?_ e
  exact LaneFit.streamFit ⟨h.lane, h.off, h.enabled, rfl⟩ rfl

/-! ## Packets -/

theorem status_delivers {x : StreamState} (h : x.status = .betweenFrames ∨ x.status = .inFrame) :
    x.active.isSome = true ∧ x.laneEnable = true ∧ x.lane.state = .run := by
  unfold StreamState.status at h
  split at h
  · simp at h
  · next c =>
    split at h
    · simp at h
    · next r =>
      simp only [Bool.or_eq_true, not_or, Bool.not_eq_true, Option.isNone_eq_false_iff, Bool.not_eq_false', bne_iff_ne, ne_eq,
        not_not] at c r
      exact ⟨c.1, c.2, r⟩

/-- A frame that begins is in progress with its timer running, on the lane as it was (R34). -/
theorem acceptFrame_view (s : State) (i : StreamId) (n : Half) (id : BitVec 4)
    (h : s.streams[i].gapTimer.isSome = s.streams[i].frame.isSome) (ha : s.streams[i].active.isSome = true) :
    laneView (s.acceptFrame i n id).streams[i]
      = (s.streams[i].lane, s.streams[i].laneEnable, true, true, true) := by
  have hv := closeFrame_view s i .truncated h
  unfold State.acceptFrame
  dsimp only
  generalize s.closeFrame i .truncated = u at hv ⊢
  have hbegin : laneView (((u.streams[i].activate id).activateDefects).beginFrame n u.timeBase)
      = (s.streams[i].lane, s.streams[i].laneEnable, true, true, true) := by
    have hact : ∀ x : StreamState, x.active.isSome = true → laneView ((x.activate id).activateDefects.beginFrame n u.timeBase)
        = (x.lane, x.laneEnable, true, true, true) := by
      intro x hx
      unfold StreamState.beginFrame StreamState.activateDefects StreamState.activate laneView
      repeat' split
      all_goals simp_all
    simp only [laneView, Prod.mk.injEq] at hv
    rw [hact _ (hv.2.2.1.trans ha), hv.1, hv.2.1]
  have hcore : ∀ v : State, coreOf i v = coreOf i (u.onStream i fun x => ((x.activate id).activateDefects).beginFrame n u.timeBase) →
      laneView v.streams[i] = (s.streams[i].lane, s.streams[i].laneEnable, true, true, true) := by
    intro v hv
    have := laneView_of_core (y := v.streams[i]) hv
    rw [this, State.onStream_get, hbegin]
  split <;> next w hoff =>
    refine hcore _ ?_
    rw [(coreOf_quiet i).bump]
    have k := congrArg (fun r => coreOf i r.1) hoff
    dsimp only at k
    rw [← k, (coreOf_quiet i).offer, (coreOf_quiet i).bump]

theorem takeFrameStart_fit {run : Prop} {s : State} {i : StreamId} (n : Half) (id : BitVec 4)
    (h : StreamFit run s.streams[i]) : StreamFit run (s.takeFrameStart i n id).streams[i] := by
  have begins : s.streams[i].status = .betweenFrames ∨ s.streams[i].status = .inFrame →
      StreamFit run (if s.streams[i].knows id then s.acceptFrame i n id else s.foreignFrame i).streams[i] := by
    intro hst
    obtain ⟨hactive, henable, hrun⟩ := status_delivers hst
    split
    · have e := acceptFrame_view s i n id h.timer hactive
      refine StreamFit.of_view
        (x := { s.streams[i] with frame := some ⟨n, 0, false, none, none, none, none⟩, gapTimer := some 0 }) ?_ ?_
      · exact ⟨⟨h.lane, h.off, h.enabled, rfl⟩, fun _ => hrun⟩
      · rw [e]; simpa [laneView] using hactive
    · have k := closeFrame_fit (s := s) .truncated h.toLaneFit
      exact k.of_view (laneView_of_core ((coreOf_quiet i).bump _ i _))
  unfold State.takeFrameStart
  split
  · next hst => exact begins (.inl hst)
  · next hst => exact begins (.inr hst)
  · exact h
  · exact h

theorem takeLine_fit {run : Prop} {s : State} {i : StreamId} (n : Nat) (e : Exposure) (px : List Pixel) (d : Bool)
    (h : StreamFit run s.streams[i]) : StreamFit run (s.takeLine i n e px d).streams[i] := by
  have hstray : StreamFit run (s.stray i).streams[i] := h.of_view (laneView_of_core ((coreOf_quiet i).bump s i _))
  unfold State.takeLine
  dsimp only
  split
  · next hst =>
    split
    · next f p hf hp =>
      split
      · have hrun := h.framing (by rw [hf]; rfl)
        have key : StreamFit run ({ s.streams[i] with frame := some (f.accept n e), gapTimer := some s.timeBase } : StreamState) :=
          ⟨⟨h.lane, h.off, h.enabled, rfl⟩, fun _ => hrun⟩
        refine key.of_view (laneView_of_core ?_)
        have hown : coreOf i (s.onStream i fun x => { x with frame := some (f.accept n e), gapTimer := some s.timeBase })
            = ({ s.streams[i] with frame := some (f.accept n e), gapTimer := some s.timeBase } : StreamState).core := by
          unfold coreOf; rw [State.onStream_get]
        change coreOf i (s.acceptLine i f n e (px.take p.lineLength) d) = _
        unfold State.acceptLine
        dsimp only
        repeat' split
        all_goals simp only [(coreOf_quiet i).pixelPath, (coreOf_quiet i).bump, hown]
      · exact hstray
    · exact h
  · exact hstray
  · exact h
  · exact h

theorem takeFrameEnd_fit {run : Prop} {s : State} {i : StreamId} (n c : Half) (h : StreamFit run s.streams[i]) :
    StreamFit run (s.takeFrameEnd i n c).streams[i] := by
  have hstray : StreamFit run (s.stray i).streams[i] := h.of_view (laneView_of_core ((coreOf_quiet i).bump s i _))
  unfold State.takeFrameEnd
  dsimp only
  split
  · split
    · split
      · have k := closeFrame_fit (s := s) .normal h.toLaneFit
        rw [State.onStream_get]
        exact k.of_view rfl
      · exact hstray
    · exact h
  · exact hstray
  · exact h
  · exact h

/-! ## Words -/

/-- An item that goes with a lane still in RUN: a packet, a header error, or the link coming up. -/
def inRunItem : LaneItem → Prop
  | .frameStart .. | .line .. | .frameEnd .. | .headerError | .linkUp => True
  | .retrain | .laneLoss => False

/-- What a lane hands over as a word takes it from one state to another: nothing, with RUN neither entered nor left; one
item with the lane in RUN; or the close of the frame, behind a header error at most. -/
inductive Hands (old new : LaneState) : List LaneItem → Prop
  | none (h : new = .run ↔ old = .run) : Hands old new []
  | item (a : LaneItem) (h : new = .run) (ha : inRunItem a) : Hands old new [a]
  | retrain : Hands old new [.retrain]
  | lost : Hands old new [.headerError, .laneLoss]

/-- A word leaves a lane in its ranges, does not move it into or out of OFF, and hands over what goes with its state. -/
structure TakesWord (old : LaneState) (r : Lane × List LaneItem) : Prop where
  fits : r.1.fits
  off : r.1.state = .off ↔ old = .off
  hands : Hands old r.1.state r.2

/-- The words that leave a lane of a fitting state in that state and hand over nothing. -/
theorem TakesWord.stays {l : Lane} (h : l.fits) {old : LaneState} (hs : l.state = old) : TakesWord old (l, []) :=
  ⟨h, by rw [hs], .none (by rw [hs])⟩

/-- A change of the receive phase and of the header error count, within their ranges. -/
theorem phase_fits {l : Lane} (h : l.fits) (hl : l.state = .run) {ph : ReceivePhase} {n : Nat} (hne : ph ≠ .none)
    (hh : ∀ words, ph = .header words → 1 ≤ words.length ∧ words.length ≤ 3)
    (hp : ∀ p, ph = .payload p → p.kept.length ≤ p.keep) (hn : n < 4) :
    Lane.fits { l with phase := ph, headerErrors := n } :=
  ⟨by simp [hl, hne], h.run, h.search, hn, fun hne => absurd hl hne, hh, hp⟩

theorem count_fits {l : Lane} (h : l.fits) (hl : l.state = .search) {n : Nat} (hn : n < 64) :
    Lane.fits { l with runCount := n } :=
  ⟨h.phase, hn, fun hne => absurd hl hne, h.errors, h.counted, h.header, h.payload⟩

theorem linkUp_fits (v : Half) : Lane.fits ⟨.run, 0, 0, .header [v]⟩ :=
  ⟨by simp, Nat.zero_lt_succ _, fun _ => rfl, Nat.zero_lt_succ _, fun _ => rfl,
    fun words e => by obtain rfl := ReceivePhase.header.inj e; simp, by simp⟩

theorem headerError_takes {l : Lane} (h : l.fits) (hl : l.state = .run) {ph : ReceivePhase} (hp : ph = .gap ∨ ph = .discard) :
    TakesWord .run (l.headerError ph) := by
  unfold Lane.headerError Config.headerErrorLimit
  split
  · exact ⟨searching_fits, by simp [Lane.searching], .lost⟩
  · next hlt =>
    have hlt : l.headerErrors + 1 < 4 := by omega
    refine ⟨?_, by simp [hl], .item _ hl trivial⟩
    rcases hp with rfl | rfl <;> exact phase_fits h hl (by simp) (by simp) (by simp) hlt

theorem headerWord_takes {l : Lane} (h : l.fits) (hl : l.state = .run) (n : Nat) {words : List Half}
    (hw : l.phase = .header words) (v : Half) : TakesWord .run (l.headerWord n words v) := by
  have hgap : Lane.fits { l with headerErrors := 0, phase := .gap } :=
    phase_fits h hl (by simp) (by simp) (by simp) (by decide)
  unfold Lane.headerWord
  split
  · split
    · next hdr _ =>
      cases hdr with
      | frameStart a b => exact ⟨hgap, by simp [Lane.goodHeader, hl], .item _ hl trivial⟩
      | frameEnd a b => exact ⟨hgap, by simp [Lane.goodHeader, hl], .item _ hl trivial⟩
      | line a b c =>
        refine .stays (phase_fits h hl (by simp) (by simp) (fun p e => ?_) (by decide)) hl
        obtain rfl := ReceivePhase.payload.inj e
        exact Nat.zero_le _
    · exact headerError_takes h hl (.inr rfl)
  · next hne =>
    have hlen := h.header _ hw
    have hthree : words.length ≠ 3 := fun e => by
      match words, e with
      | [a, b, c], _ => exact hne a b c rfl
    refine .stays (phase_fits h hl (by simp) (fun ws e => ?_) (by simp) h.errors) hl
    obtain rfl := ReceivePhase.header.inj e
    rw [List.length_append, List.length_singleton]
    omega

theorem payloadWord_takes {l : Lane} (h : l.fits) (hl : l.state = .run) {p : Payload} (hp : l.phase = .payload p) (v : Half) :
    TakesWord .run (l.payloadWord p v) := by
  unfold Lane.payloadWord
  split
  · exact ⟨phase_fits h hl (by simp) (by simp) (by simp) h.errors, by simp [hl], .item _ hl trivial⟩
  · refine .stays (phase_fits h hl (by simp) (by simp) (fun q e => ?_) h.errors) hl
    obtain rfl := ReceivePhase.payload.inj e
    have hk := h.payload _ hp
    dsimp only
    split
    · rw [List.length_append, List.length_singleton]; omega
    · exact hk

theorem takeInRun_takes {l : Lane} (h : l.fits) (hl : l.state = .run) (n : Nat) (w : WordClass) :
    TakesWord .run (l.takeInRun n w) := by
  have hgap : TakesWord .run ({ l with phase := .gap }, []) :=
    .stays (phase_fits h hl (by simp) (by simp) (by simp) h.errors) hl
  unfold Lane.takeInRun
  cases w with
  | train => exact ⟨aligned_fits, by simp, .retrain⟩
  | illegal => exact headerError_takes h hl (.inr rfl)
  | idle =>
    dsimp only
    split
    · exact headerError_takes h hl (.inl rfl)
    · exact hgap
    · exact hgap
    · exact .stays h hl
    · exact .stays h hl
  | data v =>
    dsimp only
    split
    · next words hw => exact headerWord_takes h hl n hw v
    · next p hp => exact payloadWord_takes h hl hp v
    · exact .stays h hl
    · refine .stays (phase_fits h hl (by simp) (fun ws e => ?_) (by simp) h.errors) hl
      obtain rfl := ReceivePhase.header.inj e
      simp
    · exact .stays h hl

theorem take_takes {l : Lane} (h : l.fits) (n : Nat) (w : WordClass) : TakesWord l.state (l.take n w) := by
  unfold Lane.take
  split
  · exact .stays h rfl
  · next hl =>
    have hcount : TakesWord l.state ({ l with runCount := 0 }, []) := .stays (count_fits h hl (by decide)) rfl
    cases w with
    | train =>
      dsimp only
      split
      · exact ⟨aligned_fits, by simp [hl], .none (by simp [hl])⟩
      · next hlt =>
        have hlt : l.runCount + 1 < 64 := Nat.lt_of_not_le hlt
        exact .stays (count_fits h hl hlt) rfl
    | idle => exact hcount
    | data v => exact hcount
    | illegal => exact hcount
  · next hl =>
    cases w with
    | idle => exact .stays h rfl
    | train => exact .stays h rfl
    | illegal => exact ⟨searching_fits, by simp [hl, Lane.searching], .none (by simp [hl, Lane.searching])⟩
    | data v => exact ⟨linkUp_fits v, by simp [hl], .item _ rfl trivial⟩
  · next hl =>
    rw [hl]
    exact takeInRun_takes h hl n w

/-- An item that goes with a lane in RUN keeps its stream fit. -/
theorem takeItem_fit {run : Prop} {s : State} {i : StreamId} {a : LaneItem} (ha : inRunItem a)
    (h : StreamFit run s.streams[i]) : StreamFit run (s.takeItem i a).streams[i] := by
  cases a with
  | frameStart n id => exact takeFrameStart_fit n id h
  | line n e px d => exact takeLine_fit _ e px d h
  | frameEnd n c => exact takeFrameEnd_fit n c h
  | headerError => exact h.of_view (laneView_of_core ((coreOf_quiet i).bump s i _))
  | linkUp =>
    refine h.of_view ?_
    unfold State.takeItem
    rw [State.onStream_get]
    unfold StreamState.linkUp
    split <;> rfl
  | retrain => exact ha.elim
  | laneLoss => exact ha.elim

/-- What a word hands over leaves its stream fit, where the lane has taken the word. -/
theorem takeItems_fit {run : Prop} {s : State} {i : StreamId} {old : LaneState} {items : List LaneItem}
    (hh : Hands old s.streams[i].lane.state items) (h : LaneFit run s.streams[i])
    (hf : s.streams[i].frame.isSome = true → old = .run) :
    StreamFit run (items.foldl (State.takeItem i) s).streams[i] := by
  cases hh with
  | none hs => exact ⟨h, fun hsome => hs.mpr (hf hsome)⟩
  | item a hs ha => exact takeItem_fit ha ⟨h, fun _ => hs⟩
  | retrain => exact closeFrame_fit .truncated h
  | lost =>
    have hb : LaneFit run (s.takeItem i .headerError).streams[i] :=
      h.of_view (laneView_of_core ((coreOf_quiet i).bump s i fun n => { n with headerErrors := satInc n.headerErrors }))
    have hc := closeFrame_fit .linkLost hb
    change StreamFit run ((s.takeItem i .headerError).takeItem i .laneLoss).streams[i]
    generalize s.takeItem i .headerError = u at hc ⊢
    have e : laneView (u.takeItem i .laneLoss).streams[i] = laneView (u.closeFrame i .linkLost).streams[i] := by
      unfold State.takeItem
      generalize u.closeFrame i .linkLost = v
      change laneView ((v.onStream i fun x => { x with relink := true }).bump i fun n =>
        { n with laneLosses := satInc n.laneLosses }).streams[i] = _
      rw [State.bump, State.onStream_get, State.onStream_get]
      rfl
    exact hc.of_view e

/-! ## The lanes and the device -/

/-- One stream's lane goes to OFF: the stream fits where its lane belongs in OFF. -/
theorem laneOff_fit {run : Prop} {s : State} {i : StreamId} (hoff : ¬(run ∧ s.streams[i].laneEnable = true))
    (henabled : s.streams[i].laneEnable = true → s.streams[i].active.isSome = true)
    (htimer : s.streams[i].gapTimer.isSome = s.streams[i].frame.isSome)
    (hframing : s.streams[i].frame.isSome = true → s.streams[i].lane.state = .run) :
    StreamFit run (s.laneOff i).streams[i] := by
  have hoff : LaneFit run ({ s.streams[i] with lane := .off } : StreamState) :=
    ⟨laneOff_fits, ⟨fun _ => hoff, fun _ => rfl⟩, henabled, htimer⟩
  have hu : (s.onStream i fun x => { x with lane := .off }).streams[i] = { s.streams[i] with lane := .off } :=
    State.onStream_get ..
  unfold State.laneOff
  dsimp only
  split
  · rw [State.onStream_get]
    exact (closeFrame_fit .linkLost (hu ▸ hoff)).of_view rfl
  · next hne =>
    rw [hu]
    refine hoff.streamFit ?_
    rw [← Option.not_isSome_iff_eq_none]
    exact fun hf => hne (hframing hf)

theorem laneOff_stopped {run : Prop} {s : State} {i : StreamId} (h : StreamFit run s.streams[i]) :
    StreamFit False (s.laneOff i).streams[i] :=
  laneOff_fit (fun hn => hn.1) h.enabled h.timer h.framing

theorem coreOf_fit {run : Prop} {s t : State} {k : StreamId} (e : coreOf k t = coreOf k s) (h : StreamFit run s.streams[k]) :
    StreamFit run t.streams[k] := h.of_view (laneView_of_core e)

/-- With every lane gone to OFF every stream fits a device that is not in RUNNING. -/
theorem lanesOff_fit {s : State} (h : ∀ k : StreamId, ∃ run, StreamFit run s.streams[k]) (k : StreamId) :
    StreamFit False s.lanesOff.streams[k] := by
  have keep : ∀ (l : List StreamId) (u : State), StreamFit False u.streams[k] →
      StreamFit False (l.foldl State.laneOff u).streams[k] := by
    intro l
    induction l with
    | nil => exact fun _ hu => hu
    | cons i l ih =>
      refine fun u hu => ih _ ?_
      by_cases hk : k = i
      · subst hk; exact laneOff_stopped hu
      · exact coreOf_fit ((coreOf_other hk).laneOff u) hu
  have reach : ∀ (l : List StreamId) (u : State), (∃ run, StreamFit run u.streams[k]) → k ∈ l →
      StreamFit False (l.foldl State.laneOff u).streams[k] := by
    intro l
    induction l with
    | nil => exact fun _ _ hk => absurd hk List.not_mem_nil
    | cons i l ih =>
      rintro u ⟨run, hu⟩ hmem
      by_cases hk : k = i
      · subst hk; exact keep l _ (laneOff_stopped hu)
      · exact ih _ ⟨run, coreOf_fit ((coreOf_other hk).laneOff u) hu⟩ ((List.mem_cons.mp hmem).resolve_left hk)
  exact reach _ s (h k) (List.mem_finRange k)

/-- One stream's lane leaves OFF if it may: in RUNNING the stream fits the device. -/
theorem laneOn_fit {run : Prop} {s : State} {i : StreamId} (hd : s.device = .running) (h : StreamFit run s.streams[i]) :
    StreamFit True (s.laneOn i).streams[i] := by
  unfold State.laneOn
  split
  · next hc =>
    simp only [Bool.and_eq_true, decide_eq_true_eq] at hc
    rw [State.onStream_get]
    refine ⟨⟨searching_fits, ⟨nofun, fun hn => absurd ⟨trivial, hc.1.2⟩ hn⟩, h.enabled, h.timer⟩, fun hf => ?_⟩
    rw [h.framing hf] at hc
    cases hc.2
  · next hc =>
    simp only [Bool.and_eq_true, decide_eq_true_eq, hd, true_and, not_and] at hc
    refine ⟨⟨h.lane, ⟨fun ho he => hc he.2 ho, fun hn => h.off.mpr fun he => hn ⟨trivial, he.2⟩⟩, h.enabled, h.timer⟩, h.framing⟩

theorem laneOn_device (s : State) (i : StreamId) : (s.laneOn i).device = s.device :=
  (congrArg State.device ((State.outside_quiet.on i).laneOn s) :)

/-- As the device enters RUNNING every enabled lane leaves OFF, and every stream fits. -/
theorem lanesOn_fit {s : State} (hd : s.device = .running) (h : ∀ k : StreamId, ∃ run, StreamFit run s.streams[k])
    (k : StreamId) : StreamFit True s.lanesOn.streams[k] := by
  have keep : ∀ (l : List StreamId) (u : State), u.device = .running → StreamFit True u.streams[k] →
      StreamFit True (l.foldl State.laneOn u).streams[k] := by
    intro l
    induction l with
    | nil => exact fun _ _ hu => hu
    | cons i l ih =>
      refine fun u hu hf => ih _ ((laneOn_device u i).trans hu) ?_
      by_cases hk : k = i
      · subst hk; exact laneOn_fit hu hf
      · exact coreOf_fit ((coreOf_other hk).laneOn u) hf
  have reach : ∀ (l : List StreamId) (u : State), u.device = .running → (∃ run, StreamFit run u.streams[k]) → k ∈ l →
      StreamFit True (l.foldl State.laneOn u).streams[k] := by
    intro l
    induction l with
    | nil => exact fun _ _ _ hk => absurd hk List.not_mem_nil
    | cons i l ih =>
      rintro u hu ⟨run, hf⟩ hmem
      by_cases hk : k = i
      · subst hk; exact keep l _ ((laneOn_device u k).trans hu) (laneOn_fit hu hf)
      · exact ih _ ((laneOn_device u i).trans hu) ⟨run, coreOf_fit ((coreOf_other hk).laneOn u) hf⟩
          ((List.mem_cons.mp hmem).resolve_left hk)
  exact reach _ s hd (h k) (List.mem_finRange k)

/-- A stream with a profile taken and its lane enable set fits the device (R28, R29). -/
theorem setLaneEnable_fit {s : State} {i : StreamId} {on : Bool} (hactive : s.streams[i].active.isSome = true)
    (h : StreamFit (s.device = .running) s.streams[i]) :
    StreamFit (s.device = .running) (s.setLaneEnable i on).streams[i] := by
  unfold State.setLaneEnable
  dsimp only
  have hu : (s.onStream i fun x => { x with laneEnable := on }).streams[i] = { s.streams[i] with laneEnable := on } :=
    State.onStream_get ..
  split
  · exact h
  · next hne =>
    cases on with
    | true =>
      have hen : s.streams[i].laneEnable = false := by simpa using hne
      have hlane : s.streams[i].lane.state = .off := h.off.mpr fun e => by rw [hen] at e; cases e.2
      have hframe : s.streams[i].frame = none := by
        rw [← Option.not_isSome_iff_eq_none]
        exact fun hf => by rw [h.framing hf] at hlane; cases hlane
      rw [if_pos rfl]
      unfold State.laneOn
      rw [hu]
      simp only [State.onStream_device, hlane, decide_true, Bool.and_true]
      split
      · next hd =>
        rw [State.onStream_get, hu]
        exact LaneFit.streamFit ⟨searching_fits, ⟨nofun, fun hn => absurd ⟨of_decide_eq_true hd, rfl⟩ hn⟩, fun _ => hactive, h.timer⟩ hframe
      · next hd =>
        rw [hu]
        exact LaneFit.streamFit ⟨h.lane, ⟨fun _ hr => hd (decide_eq_true hr.1), fun _ => hlane⟩, fun _ => hactive, h.timer⟩ hframe
    | false =>
      rw [if_neg Bool.false_ne_true]
      refine laneOff_fit ?_ ?_ ?_ ?_ <;> rw [hu]
      · exact fun e => Bool.false_ne_true e.2
      · exact fun e => absurd e Bool.false_ne_true
      · exact h.timer
      · exact h.framing

end Sys2Proof.Proofs
end

section
/-! O59: every step keeps every stream fit for its lane and the device (R59, R26, R45, R65). -/
namespace Sys2Proof.Proofs
open Sys2Proof.Machine

/-- Every stream fits its lane and the device. -/
def StreamsFit (s : State) : Prop := ∀ k : StreamId, StreamFit (s.device = .running) s.streams[k]

/-- What `StreamsFit` looks at: the device state, and each stream without its requests and captures. -/
def streamsOf (s : State) : DeviceState × Vector StreamState 4 := (s.device, s.streams.map StreamState.core)

theorem streamsOf_quiet : Quiet streamsOf where
  entry _ _ _ := rfl
  group _ _ _ := rfl
  pairing _ _ := rfl
  admin _ _ := rfl
  stream s i f h := by
    have e : (s.onStream i f).still.streams = s.still.streams := congrArg State.streams (State.still_quiet.stream s i f h)
    exact congrArg (Prod.mk s.device) e

theorem streamsFit_of_eq {s t : State} (e : streamsOf t = streamsOf s) (hs : StreamsFit s) : StreamsFit t := by
  intro k
  have hd : t.device = s.device := congrArg Prod.fst e
  have hc : (t.streams.map StreamState.core)[k] = (s.streams.map StreamState.core)[k] := congrArg (fun r => r.2[k]) e
  rw [Fin.getElem_fin, Fin.getElem_fin, Vector.getElem_map, Vector.getElem_map] at hc
  rw [hd]
  exact (hs k).of_view (laneView_of_core hc)

theorem streamsOf_issueRead (s : State) (k : TransactionKind) (o : Owner) (a : Addr) (n ms : Nat) :
    streamsOf (s.issueRead k o a n ms) = streamsOf s := by
  unfold State.issueRead
  split <;> rfl

theorem streamsOf_issueWrite (s : State) (k : TransactionKind) (o : Owner) (a : Addr) (d : List Byte) :
    streamsOf (s.issueWrite k o a d) = streamsOf s := by
  unfold State.issueWrite
  split <;> rfl

/-- An event of one stream that leaves it fit leaves them all fit. -/
theorem streamsFit_of_stream {s t : State} {i : StreamId} (hd : t.device = s.device)
    (hother : ∀ k, k ≠ i → coreOf k t = coreOf k s) (hi : StreamFit (s.device = .running) t.streams[i]) (hs : StreamsFit s) :
    StreamsFit t := by
  intro k
  rw [hd]
  by_cases hk : k = i
  · subst hk; exact hi
  · exact coreOf_fit (hother k hk) (hs k)

theorem reset_streamFit {run : Prop} (h : ¬run) : StreamFit run StreamState.reset :=
  ⟨⟨laneOff_fits, ⟨fun _ hr => h hr.1, fun _ => rfl⟩, nofun, rfl⟩, nofun⟩

theorem streamsFit_of_reset {s : State} (hd : s.device = .off) (hs : s.streams = Vector.replicate 4 .reset) :
    StreamsFit s := by
  intro k
  rw [hs, Fin.getElem_fin, Vector.getElem_replicate]
  exact reset_streamFit (by rw [hd]; decide)

theorem lanesOff_device (s : State) : s.lanesOff.device = s.device := by
  have k := State.outside_quiet.lanesOff s
  generalize s.lanesOff = m at k ⊢
  exact (congrArg State.device k :)

theorem streamsFit_lanesOff {s : State} (hd : s.device ≠ .running) (hs : ∀ k : StreamId, ∃ run, StreamFit run s.streams[k]) :
    StreamsFit s.lanesOff := by
  intro k
  rw [lanesOff_device, eq_false hd]
  exact lanesOff_fit hs k

theorem streamsFit_enterFaulted {s : State} (c : FaultCause) (hs : StreamsFit s) : StreamsFit (s.enterFaulted c) := by
  unfold State.enterFaulted
  split
  · exact hs
  · exact streamsFit_lanesOff (by simp [State.raiseIrq, State.withIrq]) fun k => ⟨_, hs k⟩

theorem streamsFit_slotFails {s : State} (e : EntryId) (hs : StreamsFit s) : StreamsFit (s.slotFails e) := by
  unfold State.slotFails
  dsimp only
  split
  · exact streamsFit_enterFaulted _ (streamsFit_of_eq (s := s) rfl hs)
  · refine streamsFit_of_eq (s := s) ?_ hs
    exact (streamsOf_quiet.entryReady (s.onRing (ringOfEntry e) fun x => { x with inFlight := false }) e (.unbound .fetchFault 0 0) true :)

theorem streamsFit_failOwner {s : State} (o : Option Owner) (hs : StreamsFit s) : StreamsFit (s.failOwner o) := by
  match o with
  | none => exact hs
  | some .deviceStart => exact streamsFit_enterFaulted _ hs
  | some (.slot e) => exact streamsFit_slotFails e hs
  | some (.load _) => exact streamsFit_of_eq (streamsOf_quiet.burstFails s) hs
  | some (.capture i c) => exact streamsFit_of_eq (streamsOf_quiet.writeFault s i c) hs
  | some (.completion _) => exact streamsFit_enterFaulted _ hs
  | some .statistics => exact streamsFit_of_eq (streamsOf_quiet.complete s _ _) hs

theorem streamsFit_timeOut {s : State} (d : Direction) (id : Nat) (t : Transaction) (hs : StreamsFit s) :
    StreamsFit (s.timeOut d id t) := by
  have hq : StreamsFit ((s.failOwner t.owner).quarantineEntry d id t) :=
    streamsFit_of_eq (by cases d <;> rfl) (streamsFit_failOwner t.owner hs)
  unfold State.timeOut State.judgeQuarantine
  split
  · exact streamsFit_enterFaulted _ hq
  · exact hq

theorem streamsFit_startRunning {s : State} (v : Setup) (hs : StreamsFit s) : StreamsFit (s.startRunning v) := by
  intro k
  rw [State.startRunning_device, eq_self]
  unfold State.startRunning
  refine lanesOn_fit ?_ ?_ k
  · rfl
  · exact fun k => ⟨_, hs k⟩

theorem takeProfile_view (x : StreamState) (p : Profile) :
    laneView (x.takeProfile p) = (x.lane, x.laneEnable, true, x.frame.isSome, x.gapTimer.isSome) := by
  unfold StreamState.takeProfile
  split
  · rfl
  · next h => simp [laneView, h]

theorem streamsFit_configure {s : State} (i : StreamId) (p : Profile) (on : Bool) (hs : StreamsFit s) :
    StreamsFit ((s.onStream i fun x => x.takeProfile p).setLaneEnable i on) := by
  have hu : laneView (s.onStream i fun x => x.takeProfile p).streams[i]
      = (s.streams[i].lane, s.streams[i].laneEnable, true, s.streams[i].frame.isSome, s.streams[i].gapTimer.isSome) := by
    rw [State.onStream_get, takeProfile_view]
  have hactive : (s.onStream i fun x => x.takeProfile p).streams[i].active.isSome = true :=
    congrArg (fun v => v.2.2.1) hu
  have hi : StreamFit (s.device = .running) (s.onStream i fun x => x.takeProfile p).streams[i] := by
    refine StreamFit.of_view (x := { s.streams[i] with active := some p }) ?_ hu
    exact ⟨⟨(hs i).lane, (hs i).off, fun _ => rfl, (hs i).timer⟩, (hs i).framing⟩
  refine streamsFit_of_stream (s := s) (i := i) ?_ (fun k hk => ?_) (setLaneEnable_fit hactive hi) hs
  · exact (congrArg State.device ((State.outside_quiet.on i).setLaneEnable (s.onStream i fun x => x.takeProfile p) on) :)
  · exact ((coreOf_other hk).setLaneEnable _ on).trans ((coreOf_other hk).own s fun x => x.takeProfile p)

theorem streamsFit_lane {s : State} (i : StreamId) (w : WordClass) (hs : StreamsFit s) :
    StreamsFit ((s.laneStep i w).2.foldl (State.takeItem i) (s.laneStep i w).1) := by
  have ht := take_takes (hs i).lane s.streams[i].lineLength w
  have hu : (s.laneStep i w).1.streams[i]
      = { s.streams[i] with lane := (s.streams[i].lane.take s.streams[i].lineLength w).1 } := State.onStream_get ..
  have hlane : LaneFit (s.device = .running) (s.laneStep i w).1.streams[i] := by
    rw [hu]
    exact ⟨ht.fits, ht.off.trans (hs i).off, (hs i).enabled, (hs i).timer⟩
  have hkeep : ∀ {γ : Type} {p : State → γ}, QuietOn i p → (∀ u, p (u.raiseIrq irqLane) = p u) →
      p ((s.laneStep i w).2.foldl (State.takeItem i) (s.laneStep i w).1) = p s := by
    intro γ p q hirq
    have item : ∀ (u : State) (a : LaneItem), p (u.takeItem i a) = p u := by
      intro u a
      cases a with
      | frameStart n id => exact q.takeFrameStart u n id
      | line n e px d => exact q.takeLine u _ e px d
      | frameEnd n c => exact q.takeFrameEnd u n c
      | headerError => exact q.bump u i fun n => { n with headerErrors := satInc n.headerErrors }
      | linkUp => exact q.own u _
      | retrain => exact q.closeFrame u _
      | laneLoss => exact (hirq _).trans ((q.bump _ i _).trans ((q.own _ _).trans (q.closeFrame u _)))
    have items : ∀ (l : List LaneItem) (u : State), p (l.foldl (State.takeItem i) u) = p u := by
      intro l
      induction l with
      | nil => exact fun _ => rfl
      | cons a l ih => exact fun u => (ih _).trans (item u a)
    exact (items _ _).trans (q.laneStep s w)
  refine streamsFit_of_stream ?_ (fun k hk => hkeep (coreOf_other hk) fun _ => rfl) ?_ hs
  · exact hkeep (p := State.device) ⟨⟨fun _ _ _ => rfl, fun _ _ _ => rfl, fun _ _ => rfl, fun _ _ => rfl, fun _ _ _ _ => rfl⟩,
      fun _ _ => rfl⟩ fun _ => rfl
  · refine takeItems_fit (old := s.streams[i].lane.state) ?_ hlane ?_ <;> rw [hu]
    · exact ht.hands
    · exact (hs i).framing

/-- An event of one stream's frame leaves the device and the other streams. -/
theorem streamsFit_of_own {s : State} {i : StreamId} {f : State → State}
    (q : ∀ {γ : Type} {p : State → γ}, QuietOn i p → p (f s) = p s)
    (hi : StreamFit (s.device = .running) (f s).streams[i]) (hs : StreamsFit s) : StreamsFit (f s) :=
  streamsFit_of_stream (s := s) (congrArg State.device (q (State.outside_quiet.on i)) :) (fun _ hk => q (coreOf_other hk)) hi hs

theorem streamsFit_kept : Kept StreamsFit where
  still s m e hs :=
    streamsFit_of_eq (s := s) (t := m) (congrArg (fun u : State => (u.device, u.streams)) e :) hs
  irq _ _ _ hs := hs
  enable _ _ _ hs := hs
  address _ _ hs := hs
  tick _ _ hs := hs
  reset _ := streamsFit_of_reset rfl rfl
  stopped _ := streamsFit_of_reset rfl rfl
  faulted s d id t c _ _ _ hs :=
    streamsFit_enterFaulted c (streamsFit_of_eq (s := s) (by cases d <;> rfl) hs)
  fetchFaulted s id t r c _ _ _ hs := streamsFit_enterFaulted c (streamsFit_of_eq (s := s) rfl hs)
  stopping s _ hs := streamsFit_lanesOff (by simp) fun k => ⟨_, hs k⟩
  softReset s _ hs := streamsFit_lanesOff (by simp) fun k => ⟨_, hs k⟩
  start s hd hs := by
    have hstarting : StreamsFit { s with device := .starting, enableDropped := false } := by
      have hrun : s.device = .running ↔ False := by simp [hd]
      intro k
      rw [show (DeviceState.starting = .running) = False from eq_false (by decide), ← propext hrun]
      exact hs k
    unfold State.beginStart
    dsimp only
    split
    · exact streamsFit_of_eq (streamsOf_issueRead ..) hstarting
    · exact streamsFit_enterFaulted _ hstarting
  setup s id t v _ _ _ hs := streamsFit_startRunning v (streamsFit_of_eq (s := s) rfl hs)
  read s k o a n ms _ _ hs := streamsFit_of_eq (streamsOf_issueRead s k o a n ms) hs
  write s k o a d _ hs := streamsFit_of_eq (streamsOf_issueWrite s k o a d) hs
  turn _ _ hs := hs
  collect s id t l _ hs := streamsFit_of_eq (s := s) rfl hs
  free s d id t _ hs := streamsFit_of_eq (s := s) (by cases d <;> rfl) hs
  late s d id t _ hs := streamsFit_of_eq (s := s) (by cases d <;> rfl) hs
  timeout s d id t _ _ hs := streamsFit_timeOut d id t hs
  land _ _ hs := hs
  halt _ _ _ hs := hs
  active _ _ _ hs := hs
  skip _ _ _ hs := hs
  create _ _ _ _ hs := hs
  delete _ _ hs := hs
  produce _ _ _ _ _ hs := hs
  consume _ _ _ hs := hs
  fetch s r _ hs := by
    unfold State.grantFetch
    split
    · exact streamsFit_of_eq (streamsOf_issueRead ..) hs
    · exact hs
  post _ _ _ hs := hs
  coalescing _ _ _ hs := hs
  lane _ i w hs := streamsFit_lane i w hs
  frameStart s i n id _ hs := streamsFit_of_own (f := (·.takeFrameStart i n id)) (·.takeFrameStart s n id) (takeFrameStart_fit n id (hs i)) hs
  line s i n e px d hs := streamsFit_of_own (f := (·.takeLine i n e px d)) (·.takeLine s n e px d) (takeLine_fit n e px d (hs i)) hs
  frameEnd s i n c hs := streamsFit_of_own (f := (·.takeFrameEnd i n c)) (·.takeFrameEnd s n c) (takeFrameEnd_fit n c (hs i)) hs
  close s i x hs := streamsFit_of_own (f := (·.closeFrame i x)) (·.closeFrame s x) (closeFrame_fit x (hs i).toLaneFit) hs
  configure _ i p on hs := streamsFit_configure i p on hs
  stage s i t hs := by
    refine streamsFit_of_own (i := i) (f := (·.stageDefects i t)) (·.stageDefects s t) ?_ hs
    unfold State.stageDefects
    rw [State.onStream_get]
    exact (hs i).of_view rfl

/-- Settles O59: each stream fits the lane it stands in, by what a word hands over and what the device does to the lanes. -/
theorem stepKeepsStreams : Obligations.StepKeepsStreams := by
  unfold Obligations.StepKeepsStreams
  intro s t hs e i
  exact (streamFits_iff t i).mpr (streamsFit_kept.step (fun k => (streamFits_iff s k).mp (hs k)) e i)

end Sys2Proof.Proofs
end

section
/-! The Register Window by its commands (R194, R199, R202–R205, R216): O1, O2, O7, O8, O9, O10, O11. -/
namespace Sys2Proof.Proofs
open Sys2Proof.Machine

/-! ## The commands of the window, with all strobes set -/

section
variable (s : State) (w o : Word) (v : Bool)

theorem exec_enable : exec (.enable allStrobes v) s = .next (s.writeEnable v) := rfl
theorem exec_softReset : exec (.softReset allStrobes v) s = .next s.writeSoftReset := rfl
theorem exec_producer : exec (.producer allStrobes w) s = .next (s.writeProducer (w.extractLsb' 16 8) (w.setWidth 16)) := rfl
theorem exec_consumed : exec (.consumed allStrobes w) s = .next (s.writeConsumed (w.setWidth 16)) := rfl
theorem exec_irqStatus : exec (.irqStatus allStrobes w) s = .next (s.clearIrq (w.setWidth 5)) := rfl
theorem exec_irqEnable : exec (.irqEnable allStrobes w) s = .next (s.withIrq s.irqStatus (w.setWidth 5)) := rfl
theorem exec_registerWrite : exec (.registerWrite o allStrobes w) s = .next (s.writeRegister o w) := rfl

end

/-- A register access with a byte strobe clear changes nothing (R203). -/
theorem strobed_of_ne {st : Strobes} (h : st ≠ allStrobes) (s t : State) : strobed st s t = .next s := by
  unfold strobed
  rw [if_neg h]

/-- An access that changes nothing with all strobes set changes nothing with any (R203). -/
theorem strobed_self (st : Strobes) (s : State) : strobed st s s = .next s := by
  unfold strobed
  rw [ite_self]

/-! ## Steps and resets -/

/-- Settles O1: a step looks at the queue alone. -/
theorem stepRunsFront : Obligations.StepRunsFront := by
  unfold Obligations.StepRunsFront
  refine fun s => ⟨fun h => ?_, fun c rest h => ?_⟩ <;> unfold step <;> rw [h]

/-- Settles O2: the reset state written out, field by field. -/
theorem pinResetGivesReset : Obligations.PinResetGivesReset := by
  unfold Obligations.PinResetGivesReset
  refine ⟨fun _ => rfl, rfl, rfl, rfl, rfl, rfl, rfl, rfl, rfl, rfl, ?rings, rfl, ?holding, rfl, rfl, rfl, rfl, rfl, rfl,
    ?streams, rfl, ?groups, ?trackers, rfl, rfl⟩
  case rings => intro r; simp [State.reset, Ring.absent]
  case holding => intro e; simp [State.reset, HoldingEntry.free]
  case streams => intro i; simp [State.reset]
  case groups => intro g; simp [State.reset, Group.free]
  case trackers => exact reset_allFree

/-! ## CONTROL -/

theorem writeEnable_of_resetting {s : State} (h : s.device = .resetting) (v : Bool) : s.writeEnable v = s := by
  simp [State.writeEnable, h]

theorem writeEnable_of_same {s : State} {v : Bool} (h : s.enable = v) : s.writeEnable v = s := by
  simp [State.writeEnable, h]

/-- An ENABLE that changes where nothing acts on it is held (R194). -/
theorem writeEnable_held {s : State} {v : Bool} (h : s.device = .stopping ∨ s.device = .faulted ∨ (s.device = .starting ∧ v = true)) :
    s.writeEnable v = { s with enable := v } := by
  unfold State.writeEnable
  split
  · next c =>
    have he : s.enable = v := by
      rcases h with h | h | ⟨h, -⟩ <;> simpa [h] using c
    rw [← he]
  · rcases h with h | h | ⟨h, rfl⟩ <;> simp only [h]

theorem writeEnable_dropped {s : State} (hd : s.device = .starting) (he : s.enable = true) :
    s.writeEnable false = { s with enable := false, enableDropped := true } := by
  unfold State.writeEnable
  rw [if_neg (by simp [hd, he])]
  simp only [hd]

theorem writeSoftReset_of_resetting {s : State} (h : s.device = .resetting) : s.writeSoftReset = s := if_pos h

/-- Settles O7: a clear strobe stops the access, and what ENABLE does depends on the device state. -/
theorem writesWithoutEffect : Obligations.WritesWithoutEffect := by
  unfold Obligations.WritesWithoutEffect
  intro s st v w o
  refine ⟨fun hst c hc => ?strobes, fun hd => ?resetting, fun he => ?same, fun hd => ?held, fun hd he => ?dropped⟩
  case strobes =>
    simp only [List.mem_cons, List.not_mem_nil, or_false] at hc
    rcases hc with rfl | rfl | rfl | rfl | rfl | rfl | rfl
    all_goals exact strobed_of_ne hst s _
  case resetting =>
    have henable : exec (.enable st v) s = strobed st s (s.writeEnable v) := rfl
    have hsoft : exec (.softReset st v) s = strobed st s s.writeSoftReset := rfl
    rw [henable, hsoft, writeEnable_of_resetting hd, writeSoftReset_of_resetting hd]
    exact ⟨strobed_self st s, strobed_self st s⟩
  case same =>
    have henable : exec (.enable st v) s = strobed st s (s.writeEnable v) := rfl
    rw [henable, writeEnable_of_same he]
    exact strobed_self st s
  case held => rw [exec_enable, writeEnable_held hd]
  case dropped => rw [exec_enable, writeEnable_dropped hd he]

/-! ## PRODUCER and CONSUMED -/

theorem writeIgnored_eq (s : State) : s.writeIgnored = s.withStatusBits irqWriteIgnored := rfl

theorem writeProducer_ring {s : State} {x : Byte} {r : RingId} (h : x.toNat = r.val) (c : Half) :
    s.writeProducer x c =
      if s.rings[r].state = .absent ∨ s.rings[r].slots < (c - s.rings[r].fetched).toNat then s.withStatusBits irqWriteIgnored
      else { s with rings := s.rings.set r { s.rings[r] with producer := c } } := by
  have hr : ringOf x = some r := by
    unfold ringOf
    rw [dif_pos (h ▸ r.isLt)]
    exact congrArg some (Fin.ext h)
  unfold State.writeProducer
  rw [hr]
  simp only [Bool.or_eq_true, decide_eq_true_eq, writeIgnored_eq]
  rfl

theorem writeProducer_none {s : State} {x : Byte} (h : 4 < x.toNat) (c : Half) :
    s.writeProducer x c = s.withStatusBits irqWriteIgnored := by
  have hr : ringOf x = none := by
    unfold ringOf
    rw [dif_neg (by omega)]
  unfold State.writeProducer
  rw [hr]
  rfl

/-- Settles O8: the ring that the selector names, or none, and the bounds of its count. -/
theorem ringCountWrites : Obligations.RingCountWrites := by
  unfold Obligations.RingCountWrites
  intro s w
  refine ⟨fun r hr => ?_, fun hr => ?_, ?_⟩
  · rw [exec_producer, writeProducer_ring hr]
  · rw [exec_producer, writeProducer_none hr]
  · rw [exec_consumed]
    unfold State.writeConsumed
    simp only [Bool.or_eq_true, Bool.not_eq_true', decide_eq_true_eq, writeIgnored_eq]
    rfl

/-! ## Interrupts -/

/-- The line is asserted just when some bit is set in both registers (R205). -/
theorem lineLevel_iff (a b : BitVec 5) : lineLevel a b = true ↔ ∃ k < 5, a.getLsbD k = true ∧ b.getLsbD k = true := by
  have hne : lineLevel a b = true ↔ ¬ a &&& b = 0#5 := by unfold lineLevel; exact bne_iff_ne
  rw [hne, ← not_iff_not, not_not]
  constructor
  · rintro h ⟨k, -, hk⟩
    have : (a &&& b).getLsbD k = true := by rw [BitVec.getLsbD_and, hk.1, hk.2]; rfl
    rw [h, BitVec.getLsbD_zero] at this
    cases this
  · intro h
    refine BitVec.eq_of_getLsbD_eq fun k hk => ?_
    rw [BitVec.getLsbD_and, BitVec.getLsbD_zero, Bool.and_eq_false_iff]
    by_contra hn
    simp only [not_or, Bool.not_eq_false] at hn
    exact h ⟨k, hk, hn⟩

/-- Settles O9: the line is the level of the two registers, read bit by bit. -/
theorem interruptRegisters : Obligations.InterruptRegisters := by
  unfold Obligations.InterruptRegisters
  intro s w
  refine ⟨⟨_, exec_irqStatus s w, (lineLevel_iff _ _).trans ?_⟩, ⟨_, exec_irqEnable s w, (lineLevel_iff _ _).trans ?_⟩⟩
  · refine exists_congr fun k => and_congr_right fun hk => ?_
    simp [hk, and_assoc]
  · refine exists_congr fun k => and_congr_right fun hk => ?_
    simp [hk]

/-! ## Registers by offset -/

section
variable (s : State) (w : Word)

theorem writeRegister_control : s.writeRegister 0x04#32 w = if w.getLsbD 1 then s.writeSoftReset else s.writeEnable (w.getLsbD 0) := rfl
theorem writeRegister_setupLow : s.writeRegister 0x0C#32 w = s.writeSetup false w := rfl
theorem writeRegister_setupHigh : s.writeRegister 0x10#32 w = s.writeSetup true w := rfl
theorem readRegister_setupLow : s.readRegister 0x0C#32 = s.setupAddress.setWidth 32 := rfl
theorem readRegister_setupHigh : s.readRegister 0x10#32 = s.setupAddress.extractLsb' 32 32 := rfl
theorem readRegister_control :
    s.readRegister 0x04#32 = BitVec.ofNat 32 ((if s.enable then 1 else 0) + (if s.softReset then 2 else 0)) := rfl
theorem readRegister_status : s.readRegister 0x08#32 = BitVec.ofNat 32 (s.device.code + 256 * s.cause.code) := rfl
theorem readRegister_counts : s.readRegister 0x18#32 = s.completion.post ++ s.completion.consumed := rfl
theorem readRegister_irqStatus : s.readRegister 0x1C#32 = s.irqStatus.setWidth 32 := rfl
theorem readRegister_irqEnable : s.readRegister 0x20#32 = s.irqEnable.setWidth 32 := rfl

end

/-- A write to any other offset is ignored (R203). -/
theorem writeRegister_other (s : State) (w : Word) {o : Word}
    (h : o ∉ [0x04#32, 0x0C#32, 0x10#32, 0x14#32, 0x18#32, 0x1C#32, 0x20#32]) : s.writeRegister o w = s := by
  simp only [List.mem_cons, List.not_mem_nil, or_false, not_or] at h
  obtain ⟨h04, h0C, h10, h14, h18, h1C, h20⟩ := h
  unfold State.writeRegister
  rw [if_neg h04, if_neg h0C, if_neg h10, if_neg h14, if_neg h18, if_neg h1C, if_neg h20]

/-- A read of no register is 0 (R203), as a read of PRODUCER is. -/
theorem readRegister_other (s : State) {o : Word}
    (h : o ∉ [0x00#32, 0x04#32, 0x08#32, 0x0C#32, 0x10#32, 0x18#32, 0x1C#32, 0x20#32, 0x24#32]) : s.readRegister o = 0 := by
  simp only [List.mem_cons, List.not_mem_nil, or_false, not_or] at h
  obtain ⟨h00, h04, h08, h0C, h10, h18, h1C, h20, h24⟩ := h
  unfold State.readRegister
  rw [if_neg h00, if_neg h04, if_neg h08, if_neg h0C, if_neg h10, if_neg h18, if_neg h1C, if_neg h20, if_neg h24]

theorem deviceState_code (d : DeviceState) :
    d.code = [DeviceState.off, .starting, .running, .stopping, .resetting, .faulted].idxOf d ∧ d.code ≤ 5 := by
  cases d <;> decide

theorem faultCause_code (c : FaultCause) :
    c.code = [FaultCause.none, .setupInvalid, .setupRead, .completionWrite, .adminFetch, .quarantine].idxOf c ∧ c.code ≤ 5 := by
  cases c <;> decide

/-- The SETUP address is its two halves (R203). -/
theorem setupAddress_low (a : Addr) (w : Word) : (a.extractLsb' 32 32 ++ w).setWidth 32 = w
    ∧ (a.extractLsb' 32 32 ++ w).extractLsb' 32 32 = a.extractLsb' 32 32 :=
  ⟨BitVec.setWidth_append_eq_right, BitVec.extractLsb'_append_eq_left⟩

theorem setupAddress_high (a : Addr) (w : Word) : (w ++ a.setWidth 32).extractLsb' 32 32 = w
    ∧ (w ++ a.setWidth 32).setWidth 32 = a.setWidth 32 :=
  ⟨BitVec.extractLsb'_append_eq_left, BitVec.setWidth_append_eq_right⟩

/-- Settles O10: each offset by its own equation, and the fields of a word by their bit positions. -/
theorem registerAccess : Obligations.RegisterAccess := by
  unfold Obligations.RegisterAccess
  intro s w o
  refine ⟨⟨_, rfl, rfl, ?low⟩, ⟨_, rfl, rfl, ?high⟩, ?control, rfl, rfl, rfl, rfl, fun ho => ?ignored, rfl, ?readControl, ?readStatus,
    rfl, ?readCounts, ?readIrqStatus, ?readIrqEnable, rfl, fun ho => ?absent⟩
  case low => exact setupAddress_low s.setupAddress w
  case high => exact setupAddress_high s.setupAddress w
  case control =>
    rw [exec_registerWrite, writeRegister_control]
    split
    · rw [exec_softReset]
    · rw [exec_enable]
  case ignored => rw [exec_registerWrite, writeRegister_other s w ho]
  case readControl =>
    rw [readRegister_control]
    cases s.enable <;> cases s.softReset <;> rfl
  case readStatus =>
    obtain ⟨hd, hdle⟩ := deviceState_code s.device
    obtain ⟨hc, hcle⟩ := faultCause_code s.cause
    rw [readRegister_status, ← hd, ← hc, BitVec.toNat_ofNat]
    omega
  case readCounts =>
    rw [readRegister_counts, BitVec.toNat_append, Nat.shiftLeft_eq, Nat.mul_comm, ← Nat.two_pow_add_eq_or_of_lt s.completion.consumed.isLt]
    omega
  case readIrqStatus => rw [readRegister_irqStatus]; exact BitVec.toNat_setWidth_of_le (by decide)
  case readIrqEnable => rw [readRegister_irqEnable]; exact BitVec.toNat_setWidth_of_le (by decide)
  case absent => exact readRegister_other s fun h => ho (by simp only [List.mem_cons, List.not_mem_nil, or_false] at h ⊢; tauto)

/-- Settles O11: the count is a 32-bit word, so the end of its range is followed by 0. -/
theorem timeBaseTicks : Obligations.TimeBaseTicks := by
  unfold Obligations.TimeBaseTicks
  refine fun s => ⟨_, rfl, ?_⟩
  have hlt := s.timeBase.isLt
  split <;> bv_omega

/-! ## Reset -/

theorem streamsFit_reset : StreamsFit State.reset := streamsFit_of_reset rfl rfl

theorem not_isFor_of_free {e : TrackerEntry} (h : e = .free) (o : Owner) : e.isFor o = false := by rw [h]; rfl

/-- Settles O56: with every tracker entry FREE, every ring ABSENT and every list empty. -/
theorem resetFits : Obligations.ResetFits := by
  unfold Obligations.ResetFits
  obtain ⟨hreads, hwrites⟩ := reset_allFree
  refine ⟨rfl, deviceKept_reset.1, deviceKept_reset.2, ringsBounded_reset, fun i => (streamFits_iff _ i).mpr (streamsFit_reset i),
    quarantineCounts_reset, ownersFit_of_allFree reset_allFree, ?bounds, ?lists, ?held⟩
  case bounds =>
    refine ⟨fun i => ?_, fun i _ => ?_, by decide, List.nodup_nil⟩ <;> simp [State.reset, StreamState.reset]
  case lists =>
    refine ⟨fun j k e f hj => ?_, fun j e hj => ?_, fun r _ => ?_, fun i => ?_⟩
    · rw [not_isFor_of_free (hreads j)] at hj; cases hj
    · rw [not_isFor_of_free (hreads j)] at hj; cases hj
    · simp [State.reset, Ring.absent]
    · simp [State.reset, StreamState.reset, Ring.absent]
  case held =>
    refine ⟨fun j e hj => ?_, fun j e hj => ?_⟩
    · rw [not_isFor_of_free (hreads j)] at hj; cases hj
    · rw [not_isFor_of_free (hwrites j)] at hj; cases hj

end Sys2Proof.Proofs
end

section
/-! Resets and starts (R195, R197, R198): O3, O4, O5. -/
namespace Sys2Proof.Proofs
open Sys2Proof.Machine

/-! ## What `conclude` does to the device -/

/-- With the Memory Port idle a soft reset ends in the event (R198). -/
theorem conclude_of_resetting {s : State} (hd : s.device = .resetting) (hp : s.allFree) :
    s.conclude = { State.reset with pending := s.pending } := by
  have k := State.outside_quiet.beforeEndings s
  unfold State.conclude
  generalize s.drain.startWaiting.drain.enqueue = m at k ⊢
  have hdev : m.device = .resetting := (congrArg State.device k :).trans hd
  have hreads : m.reads = s.reads := (congrArg State.reads k :)
  have hwrites : m.writes = s.writes := (congrArg State.writes k :)
  have hpend : m.pending = s.pending := (congrArg State.pending k :)
  have hidle : m.portIdle = true := by rw [State.portIdle_iff, State.allFree, hreads, hwrites]; exact hp
  have hstop : m.stopEnds = false := by simp [State.stopEnds, hdev]
  have hreset : m.resetEnds = true := by simp [State.resetEnds, hdev, hidle]
  rw [State.endings, if_neg (by simp [hstop]), if_pos hreset, State.toReset, hpend]

/-- With an entry of the Memory Port in use neither a stop nor a soft reset ends (R197, R198). -/
theorem conclude_of_busy {s : State} (hp : ¬s.allFree) : s.conclude.outside = s.outside ∧ s.conclude.device = s.device := by
  rw [← State.portIdle_iff] at hp
  rcases State.conclude_outside s with h | ⟨-, h, -⟩ | ⟨-, h, -⟩
  · exact h
  · exact absurd h hp
  · exact absurd h hp

/-! ## Soft reset -/

theorem beginReset_device (s : State) : s.beginReset.device = .resetting := lanesOff_device _

theorem outside_beginReset (s : State) : s.beginReset.outside = { s with
    device := .resetting, softReset := true, quarantine := 0
    reads := s.reads.map TrackerEntry.unquarantined
    writes := s.writes.map TrackerEntry.unquarantined }.outside := State.outside_quiet.lanesOff _

theorem unquarantined_eq_free {e : TrackerEntry} : e.unquarantined = .free ↔ e = .free := by
  cases e <;> simp [TrackerEntry.unquarantined]

/-- A soft reset leaves the Memory Port idle just where it was. -/
theorem beginReset_allFree (s : State) : s.beginReset.allFree ↔ s.allFree := by
  have k := outside_beginReset s
  generalize s.beginReset = m at k ⊢
  have hreads : m.reads = s.reads.map TrackerEntry.unquarantined := (congrArg State.reads k :)
  have hwrites : m.writes = s.writes.map TrackerEntry.unquarantined := (congrArg State.writes k :)
  simp only [State.allFree, hreads, hwrites, Fin.getElem_fin, Vector.getElem_map, unquarantined_eq_free]

theorem beginReset_pending (s : State) : s.beginReset.pending = s.pending := by
  have k := outside_beginReset s
  generalize s.beginReset = m at k ⊢
  exact (congrArg State.pending k :)

/-- Settles O3: the soft reset ends in the event just where the Memory Port is idle, and otherwise the lanes stay off. -/
theorem softResetBegins : Obligations.SoftResetBegins := by
  unfold Obligations.SoftResetBegins
  intro s b hd
  have hexec : exec (.softReset allStrobes b) s = .next s.beginReset.conclude := by
    change Host.Outcome.next s.writeSoftReset = _
    unfold State.writeSoftReset
    rw [if_neg hd]
  have hdev := beginReset_device s
  refine ⟨fun hfree => ?_, fun hbusy => ⟨_, hexec, ?_, ?_⟩⟩
  · rw [hexec, conclude_of_resetting hdev ((beginReset_allFree s).mpr hfree), beginReset_pending]
  · rw [(conclude_of_busy (hbusy ∘ (beginReset_allFree s).mp)).1, outside_beginReset]
  · exact State.conclude_lanes (by rw [hdev]; decide) (State.lanesOff_all _)

/-! ## The ends of a stop and of a soft reset -/

theorem stopEnds_iff (s : State) :
    s.stopEnds = true ↔ s.device = .stopping ∧ (∀ e : EntryId, s.holding[e].state = .free) ∧ s.allFree := by
  unfold State.stopEnds
  rw [Bool.and_eq_true, Bool.and_eq_true, decide_eq_true_eq, State.listEmpty_iff, State.portIdle_iff, and_assoc]

theorem resetEnds_iff (s : State) : s.resetEnds = true ↔ s.device = .resetting ∧ s.allFree := by
  unfold State.resetEnds
  rw [Bool.and_eq_true, decide_eq_true_eq, State.portIdle_iff]

/-- The line after a stop is at the level that STOPPED gives it (R205). -/
theorem lineLevel_stopped (e : BitVec 5) : lineLevel irqStopped e = e.getLsbD 4 := by
  revert e; decide

theorem toStopped_eq (s : State) : s.toStopped = { State.reset with
    setupAddress := s.setupAddress, irqStatus := irqStopped, irqEnable := s.irqEnable
    irqLine := s.irqEnable.getLsbD 4, pending := s.pending } := by
  rw [← lineLevel_stopped]
  rfl

/-- Settles O4: the two conditions, as the model's tests decide them. -/
theorem stopAndResetEnd : Obligations.StopAndResetEnd := by
  unfold Obligations.StopAndResetEnd
  intro s
  have hstop : exec .stopCompletes s = .next (if s.stopEnds then s.toStopped else s) := rfl
  have hreset : exec .softResetEnds s = .next (if s.resetEnds then s.toReset else s) := rfl
  rw [hstop, hreset]
  refine ⟨fun hd he hp => ?_, fun hn => ?_, fun hd hp => ?_, fun hn => ?_⟩
  · rw [if_pos ((stopEnds_iff s).mpr ⟨hd, he, hp⟩), toStopped_eq]
  · rw [if_neg (mt (stopEnds_iff s).mp hn)]
  · rw [if_pos ((resetEnds_iff s).mpr ⟨hd, hp⟩), State.toReset]
  · rw [if_neg (mt (resetEnds_iff s).mp hn)]

/-! ## ENABLE in OFF -/

/-- A read is issued in the lowest FREE entry (R178). -/
theorem issueRead_next {s : State} {j : Fin Config.readEntries} (h : s.nextRead j) (k : TransactionKind) (o : Owner) (a : Addr)
    (n ms : Nat) : s.issueRead k o a n ms = { s with
      reads := s.reads.set j (.issued ⟨k, some o, a, n, s.timeBase, ms, []⟩)
      handed := some ⟨.read, j, a, n, []⟩ } := by
  unfold State.issueRead
  rw [lowestFree_eq_some h]

/-- A write is issued in the lowest FREE entry (R178). -/
theorem issueWrite_next {s : State} {j : Fin Config.writeEntries} (h : s.nextWrite j) (k : TransactionKind) (o : Owner) (a : Addr)
    (d : List Byte) : s.issueWrite k o a d = { s with
      writes := s.writes.set j (.issued ⟨k, some o, a, d.length, s.timeBase, s.responseTimeout, []⟩)
      handed := some ⟨.write, j, a, d.length, d⟩ } := by
  unfold State.issueWrite
  rw [lowestFree_eq_some h]

/-- Settles O5: the setup read is issued, or its address faults the device, whose lanes are all in OFF. -/
theorem enableStarts : Obligations.EnableStarts := by
  unfold Obligations.EnableStarts
  intro s hd he hlanes
  have hexec : exec (.enable allStrobes true) s = .next { s with enable := true }.beginStart := by
    rw [exec_enable]
    unfold State.writeEnable
    rw [if_neg (by simp [hd, he])]
    simp only [hd]
  have hgood : ∀ a : Addr, setupAddressGood a = true ↔ a.toNat % 64 = 0 ∧ a.toNat + 64 ≤ 2 ^ 64 := by
    intro a
    simp [setupAddressGood]
  refine ⟨fun haligned hfits j hj => ?_, fun hmis => ?_⟩
  · rw [hexec]
    unfold State.beginStart
    rw [if_pos ((hgood _).mpr ⟨haligned, hfits⟩)]
    exact congrArg Host.Outcome.next
      (issueRead_next (s := { s with enable := true, device := .starting, enableDropped := false }) hj ..)
  · rw [hexec]
    unfold State.beginStart
    rw [if_neg (mt (hgood _).mp fun h => hmis h.1)]
    exact congrArg Host.Outcome.next (State.enterFaulted_eq
      (s := { s with enable := true, device := .starting, enableDropped := false }) hlanes .setupInvalid (by simp))

end Sys2Proof.Proofs
end

section
/-! What the rules place in the event at hand (R20, R126, R127, R155, R169): each consequence is idle once it has happened. -/
namespace Sys2Proof.Proofs
open Sys2Proof.Machine

/-! ## Requests and groups: what the heads of the lists do -/

/-- A projection that holding entries, groups and the prefetch lists with their deadlines do not move. -/
structure QuietHeads {γ : Type} (p : State → γ) : Prop where
  entry : ∀ s e f, p (State.onEntry s e f) = p s
  group : ∀ s g f, p (State.onGroup s g f) = p s
  list : ∀ s i (f : List Request → List Request) d,
    p (State.onStream s i fun x => { x with prefetch := f x.prefetch, deadline := d }) = p s

section
variable {γ : Type} {p : State → γ} (h : QuietHeads p) (s : State)
include h

theorem QuietHeads.record (i : StreamId) (q : Request) (r : Report) : p (s.record i q r) = p s := by
  unfold State.record
  split
  · exact (h.group _ _ _).trans (h.entry _ _ _)
  · exact h.entry _ _ _

theorem QuietHeads.register (i : StreamId) (q : Request) : p (s.register i q).1 = p s := by
  unfold State.register
  split
  · rfl
  · dsimp only
    repeat' split
    all_goals dsimp only
    · exact h.entry _ _ _
    · exact (h.group _ _ _).trans (h.entry _ _ _)
    · exact h.group _ _ _

theorem QuietHeads.adoptHead (i : StreamId) (l : List Request) : p (Machine.adoptHead i l s) = p s := by
  induction l generalizing s with
  | nil => exact h.list s i (fun _ => []) none
  | cons q l ih =>
    unfold Machine.adoptHead
    split
    · exact (ih _).trans (h.entry _ _ _)
    · have k := h.register s i q
      split
      · next e => rw [e] at k; exact (h.list _ i (fun _ => q :: l) _).trans k
      · next e => rw [e] at k; exact (ih _).trans k

theorem QuietHeads.newHead (i : StreamId) : p (s.newHead i) = p s := h.adoptHead s i _

theorem QuietHeads.breakMember (g : GroupId) (i : StreamId) : p (s.breakMember g i) = p s := by
  unfold State.breakMember
  split
  · next q _ =>
    exact (h.list _ i (fun l => l.filter (·.entry ≠ q.entry)) none).trans ((h.group _ _ _).trans (h.entry _ _ _))
  · exact h.group _ _ _

theorem QuietHeads.releaseMember (v : GroupStatus) (e : Group) (i : StreamId) : p (s.releaseMember v e i) = p s := by
  unfold State.releaseMember
  split
  · exact h.entry _ _ _
  · rfl

theorem QuietHeads.resolveGroup (g : GroupId) : p (s.resolveGroup g) = p s := by
  unfold State.resolveGroup
  dsimp only
  split
  · exact (h.group _ _ _).trans (foldl_keeps p _ (fun s i => h.releaseMember s _ _ i) _ _)
  · rfl

theorem QuietHeads.breakGroup (g : GroupId) : p (s.breakGroup g) = p s := by
  unfold State.breakGroup
  dsimp only
  split
  · exact (foldl_keeps p _ (fun s i => h.newHead s i) _ _).trans ((h.resolveGroup _ g).trans
      ((foldl_keeps p _ (fun s i => h.breakMember s g i) _ _).trans (h.group _ _ _)))
  · rfl

theorem QuietHeads.breakGroupsOf (i : StreamId) : p (s.breakGroupsOf i) = p s :=
  foldl_keeps p _ (fun s g => by split; exacts [h.breakGroup s g, rfl]) _ _

theorem QuietHeads.memberFinished (g : Option GroupId) (x : Status) : p (s.memberFinished g x) = p s := by
  unfold State.memberFinished
  split
  · rfl
  · refine (h.resolveGroup _ _).trans ?_
    split
    · exact h.group _ _ _
    · exact h.breakGroup _ _

theorem QuietHeads.resolveGroups : p s.resolveGroups = p s := foldl_keeps p _ (fun s g => h.resolveGroup s g) _ _

theorem QuietHeads.abortList (i : StreamId) : p (s.abortList i) = p s :=
  (h.list _ i (fun _ => []) none).trans (foldl_keeps p _ (fun s q => h.record s i q _) _ _)

theorem QuietHeads.finishHead (i : StreamId) (x : Status) : p (s.finishHead i x) = p s := by
  unfold State.finishHead
  split
  · rfl
  · next q rest _ =>
    exact (h.newHead _ i).trans ((h.memberFinished _ _ x).trans ((h.list _ i (fun _ => rest) none).trans (h.record s i q _)))

end

/-! ## A fold of consequences -/

section
variable {α : Type} {f : State → α → State} {idle : α → State → Prop}

/-- Consequences that have all happened change nothing. -/
theorem foldl_idle (hsame : ∀ s a, idle a s → f s a = s) {l : List α} {s : State} (h : ∀ a ∈ l, idle a s) :
    l.foldl f s = s := by
  induction l with
  | nil => rfl
  | cons a l ih =>
    rw [List.foldl_cons, hsame s a (h a List.mem_cons_self)]
    exact ih fun b hb => h b (List.mem_cons_of_mem a hb)

/-- Each consequence of a list has happened once all have been taken. -/
theorem foldl_done (hdone : ∀ s a, idle a (f s a)) (hkeep : ∀ s a b, idle b s → idle b (f s a)) (l : List α) (s : State) :
    ∀ a ∈ l, idle a (l.foldl f s) := by
  have keep : ∀ (l : List α) (s : State) a, idle a s → idle a (l.foldl f s) := by
    intro l
    induction l with
    | nil => exact fun _ _ h => h
    | cons b l ih => exact fun s a h => ih _ a (hkeep s b a h)
  induction l generalizing s with
  | nil => exact fun _ h => absurd h List.not_mem_nil
  | cons b l ih =>
    intro a ha
    rcases List.mem_cons.mp ha with rfl | ha
    · exact keep l _ a (hdone s a)
    · exact ih _ a ha

/-- The first consequence that is due may be taken ahead of the others. -/
theorem foldl_first (hsame : ∀ s a, idle a s → f s a = s) (hdone : ∀ s a, idle a (f s a))
    (hkeep : ∀ s a b, idle b s → idle b (f s a)) {as bs : List α} {a : α} {s : State} (has : ∀ b ∈ as, idle b s) :
    (as ++ a :: bs).foldl f (f s a) = (as ++ a :: bs).foldl f s := by
  rw [List.foldl_append, List.foldl_append, foldl_idle hsame has, foldl_idle hsame fun b hb => hkeep s a b (has b hb),
    List.foldl_cons, List.foldl_cons, hsame _ a (hdone s a)]

end

/-- In a rising list whatever stands before a member is below it. -/
theorem exists_split_of_mem {α : Type} {R : α → α → Prop} {l : List α} (hl : l.Pairwise R) {a : α} (ha : a ∈ l) :
    ∃ as bs, l = as ++ a :: bs ∧ ∀ b ∈ as, R b a := by
  obtain ⟨as, bs, rfl⟩ := List.append_of_mem ha
  rw [List.pairwise_append] at hl
  exact ⟨as, bs, rfl, fun b hb => hl.2.2 b hb a List.mem_cons_self⟩

/-! ## Captures -/

/-- What the test for a drained capture looks at. -/
def captureView (s : State) : List HeldLine × Vector (Vector (Option Capture) 2 × List OutputLine) 4 :=
  (s.pairing, s.streams.map fun x => (x.contexts, x.buffer))

theorem captureView_stream (s : State) (i : StreamId) (f : StreamState → StreamState)
    (h : (f s.streams[i]).contexts = s.streams[i].contexts ∧ (f s.streams[i]).buffer = s.streams[i].buffer) :
    captureView (s.onStream i f) = captureView s := by
  have e : (s.streams.set i (f s.streams[i])).map (fun x => (x.contexts, x.buffer)) = s.streams.map fun x => (x.contexts, x.buffer) := by
    ext1 k hk
    simp only [Vector.getElem_map, Vector.getElem_set]
    split
    · next hik => subst hik; exact Prod.ext h.1 h.2
    · rfl
  exact congrArg (Prod.mk s.pairing) e

theorem captureView_heads : QuietHeads captureView where
  entry _ _ _ := rfl
  group _ _ _ := rfl
  list s i f d := captureView_stream s i (fun x => { x with prefetch := f x.prefetch, deadline := d }) ⟨rfl, rfl⟩

theorem captureView_get {s t : State} (e : captureView t = captureView s) (i : StreamId) :
    t.streams[i].contexts = s.streams[i].contexts ∧ t.streams[i].buffer = s.streams[i].buffer := by
  have k := congrArg (fun v => v.2[i]) e
  simp only [captureView, Fin.getElem_fin, Vector.getElem_map, Prod.mk.injEq] at k
  exact k

/-- Whether a capture is drained is a matter of held lines, contexts and buffers (R20). -/
theorem drained_of_view {s t : State} (e : captureView t = captureView s) (i : StreamId) (c : ContextId) :
    t.drained i c = s.drained i c := by
  obtain ⟨hc, hb⟩ := captureView_get e i
  have hp : t.pairing = s.pairing := congrArg Prod.fst e
  unfold State.drained State.capture? State.holdsLines
  rw [hc, hb, hp]

/-- A drained capture is there and FLUSHING (R20). -/
theorem drained_some {s : State} {i : StreamId} {c : ContextId} (h : s.drained i c = true) :
    ∃ k, s.streams[i].contexts[c] = some k ∧ k.phase = .flushing := by
  unfold State.drained at h
  split at h
  · next k hk =>
    simp only [Bool.and_eq_true, decide_eq_true_eq] at h
    exact ⟨k, hk, h.1.1.1⟩
  · cases h

theorem finishCapture_idle {s : State} {i : StreamId} {c : ContextId} (h : s.drained i c = false) : s.finishCapture i c = s := by
  unfold State.finishCapture
  rw [h]

/-- A drained capture that finishes frees its context, and touches no other context, buffer or held line (R20). -/
theorem captureView_finishCapture {s : State} {i : StreamId} {c : ContextId} (h : s.drained i c = true) :
    captureView (s.finishCapture i c)
      = captureView (s.onStream i fun x => { x with contexts := x.contexts.set c none }) := by
  obtain ⟨k, hk, -⟩ := drained_some h
  have hk : s.capture? i c = some k := hk
  unfold State.finishCapture
  rw [h, hk]
  dsimp only
  rw [captureView_heads.memberFinished]
  have hu : captureView ((s.record i k.request k.report).onStream i fun x => { x with contexts := x.contexts.set c none })
      = captureView (s.onStream i fun x => { x with contexts := x.contexts.set c none }) := by
    unfold State.record
    split <;> rfl
  split <;> exact hu

theorem drained_finishCapture (s : State) (i k : StreamId) (c d : ContextId) :
    (s.finishCapture i c).drained k d = if k = i ∧ d = c then false else s.drained k d := by
  by_cases h : s.drained i c = true
  · rw [drained_of_view (captureView_finishCapture h)]
    unfold State.drained State.capture? State.holdsLines
    by_cases hk : k = i
    · subst hk
      rw [State.onStream_get]
      dsimp only
      rw [get_set]
      by_cases hd : d = c
      · rw [if_pos hd, if_pos ⟨rfl, hd⟩]
      · rw [if_neg hd, if_neg fun e => hd e.2]
        rfl
    · rw [State.onStream_get_ne _ hk, if_neg fun e => hk e.1]
      rfl
  · have h : s.drained i c = false := by simpa using h
    rw [finishCapture_idle h]
    split
    · next e => rw [e.1, e.2, h]
    · rfl

/-- The contexts in the order in which one event finishes them (log entry 25). -/
def contextOrder : List (StreamId × ContextId) := [(0, 0), (0, 1), (1, 0), (1, 1), (2, 0), (2, 1), (3, 0), (3, 1)]

theorem finishCaptures_eq (s : State) : s.finishCaptures = contextOrder.foldl (fun s p => s.finishCapture p.1 p.2) s := by
  unfold State.finishCaptures contextOrder
  rw [show List.finRange 4 = [0, 1, 2, 3] from rfl]
  simp only [List.foldl_cons, List.foldl_nil]

theorem mem_contextOrder : ∀ p : StreamId × ContextId, p ∈ contextOrder := by decide

theorem contextOrder_rising : contextOrder.Pairwise fun p q => p.1 < q.1 ∨ (p.1 = q.1 ∧ p.2 < q.2) := by decide

/-- The capture of a context is not drained. -/
abbrev CaptureIdle (p : StreamId × ContextId) (s : State) : Prop := s.drained p.1 p.2 = false

theorem captureIdle_done (s : State) (p : StreamId × ContextId) : CaptureIdle p (s.finishCapture p.1 p.2) := by
  rw [CaptureIdle, drained_finishCapture, if_pos ⟨rfl, rfl⟩]

theorem captureIdle_keep (s : State) (p q : StreamId × ContextId) (h : CaptureIdle q s) :
    CaptureIdle q (s.finishCapture p.1 p.2) := by
  rw [CaptureIdle, drained_finishCapture]
  split
  · rfl
  · exact h

theorem captureIdle_same (s : State) (p : StreamId × ContextId) (h : CaptureIdle p s) : s.finishCapture p.1 p.2 = s :=
  finishCapture_idle h

theorem finishCaptures_idle {s : State} (h : ∀ i c, s.drained i c = false) : s.finishCaptures = s := by
  rw [finishCaptures_eq]
  exact foldl_idle (idle := CaptureIdle) captureIdle_same fun p _ => h p.1 p.2

/-- Afterwards no capture is drained (R20). -/
theorem finishCaptures_done (s : State) (i : StreamId) (c : ContextId) : s.finishCaptures.drained i c = false := by
  rw [finishCaptures_eq]
  exact foldl_done (idle := CaptureIdle) captureIdle_done captureIdle_keep contextOrder s (i, c) (mem_contextOrder _)

/-- The first drained capture may finish ahead of the others. -/
theorem finishCaptures_first {s : State} {i : StreamId} {c : ContextId}
    (h : ∀ (k : StreamId) (d : ContextId), k < i ∨ (k = i ∧ d < c) → s.drained k d = false) :
    (s.finishCapture i c).finishCaptures = s.finishCaptures := by
  obtain ⟨as, bs, e, has⟩ := exists_split_of_mem contextOrder_rising (mem_contextOrder (i, c))
  rw [finishCaptures_eq, finishCaptures_eq, e]
  exact foldl_first (idle := CaptureIdle) (a := (i, c)) captureIdle_same captureIdle_done captureIdle_keep
    fun p hp => h p.1 p.2 (has p hp)

/-! ## Groups -/

theorem groups_releaseMembers (v : GroupStatus) (e : Group) (l : List StreamId) (s : State) :
    (l.foldl (State.releaseMember v e) s).groups = s.groups :=
  foldl_keeps State.groups _ (fun s i => by unfold State.releaseMember; split <;> rfl) _ _

theorem resolveGroup_groups {s : State} {g : GroupId} (h : s.groups[g].resolves = true) :
    (s.resolveGroup g).groups = s.groups.set g .free := by
  unfold State.resolveGroup
  dsimp only
  rw [if_pos h]
  unfold State.onGroup
  dsimp only
  rw [groups_releaseMembers]

theorem resolves_resolveGroup (s : State) (g k : GroupId) :
    (s.resolveGroup g).groups[k].resolves = if k = g then false else s.groups[k].resolves := by
  by_cases h : s.groups[g].resolves = true
  · rw [resolveGroup_groups h, get_set]
    split <;> rfl
  · have h : s.groups[g].resolves = false := by simpa using h
    rw [State.resolveGroup_same h]
    split
    · next e => rw [e, h]
    · rfl

/-- The group does not resolve. -/
abbrev GroupIdle (g : GroupId) (s : State) : Prop := s.groups[g].resolves = false

theorem groupIdle_done (s : State) (g : GroupId) : GroupIdle g (s.resolveGroup g) := by
  rw [GroupIdle, resolves_resolveGroup, if_pos rfl]

theorem groupIdle_keep (s : State) (g k : GroupId) (h : GroupIdle k s) : GroupIdle k (s.resolveGroup g) := by
  rw [GroupIdle, resolves_resolveGroup]
  split
  · rfl
  · exact h

theorem groupIdle_same (s : State) (g : GroupId) (h : GroupIdle g s) : s.resolveGroup g = s := State.resolveGroup_same h

theorem resolveGroups_idle {s : State} (h : ∀ g : GroupId, s.groups[g].resolves = false) : s.resolveGroups = s :=
  foldl_idle (idle := GroupIdle) groupIdle_same fun g _ => h g

/-- Afterwards no group can resolve (R126, R127). -/
theorem resolveGroups_done (s : State) (g : GroupId) : s.resolveGroups.groups[g].resolves = false :=
  foldl_done (idle := GroupIdle) groupIdle_done groupIdle_keep (List.finRange 8) s g (List.mem_finRange g)

/-- The lowest group that can resolve may do so ahead of the others. -/
theorem resolveGroups_first {s : State} {g : GroupId} (h : ∀ k < g, s.groups[k].resolves = false) :
    (s.resolveGroup g).resolveGroups = s.resolveGroups := by
  obtain ⟨as, bs, e, has⟩ := exists_split_of_mem (List.pairwise_lt_finRange 8) (List.mem_finRange g)
  unfold State.resolveGroups
  rw [e]
  exact foldl_first (idle := GroupIdle) groupIdle_same groupIdle_done groupIdle_keep fun k hk => h k (has k hk)

end Sys2Proof.Proofs
end

section
/-! O51: what the rules place in the event at hand, one consequence after the other (log entry 2). -/
namespace Sys2Proof.Proofs
open Sys2Proof.Machine

/-! ## A lane loss closes the frame LINK_LOST -/

/-- The close of a frame LINK_LOST, whatever it is bound to (R46, R51, R108). -/
theorem closeFrame_linkLost (s : State) (i : StreamId) : s.closeFrame i .linkLost = s.linkDropped i := by
  unfold State.linkDropped
  rcases hf : s.streams[i].frame with _ | f
  · exact State.closeFrame_none hf _
  dsimp only
  rcases hb : f.bound with _ | c
  · exact State.closeFrame_unbound hf hb _
  dsimp only
  rcases hc : s.streams[i].contexts[c] with _ | k
  · have key : s.closeFrame i .linkLost = (s.closeFrame i .linkLost) := rfl
    dsimp only
    have hu : ∀ u : State, u.streams[i].contexts = s.streams[i].contexts → u.closeCapture i c .linkLost = u := by
      intro u h
      unfold State.closeCapture State.capture?
      rw [h, hc]
    unfold State.closeFrame
    rw [hf]
    dsimp only
    rw [hb]
    dsimp only
    rw [if_neg (by decide), hu]
    · simp only [State.bump, State.onStream_eq, State.withStream_get, State.withStream_twice]
      rfl
    · simp only [State.bump, State.onStream_eq, State.withStream_get, State.withStream_twice]
  · exact State.closeFrame_lost ⟨hf, hb, hc⟩

theorem linkDropped_admin (s : State) (i : StreamId) : (s.linkDropped i).admin = s.admin := by
  unfold State.linkDropped
  repeat' split
  all_goals rfl

/-! ## The Admin Unit -/

theorem admin_heads : QuietHeads State.admin where
  entry _ _ _ := rfl
  group _ _ _ := rfl
  list _ _ _ _ := rfl

theorem laneOff_admin (s : State) (i : StreamId) : (s.laneOff i).admin = s.admin := by
  unfold State.laneOff
  dsimp only
  split
  · rw [State.onStream_admin, closeFrame_linkLost, linkDropped_admin, State.onStream_admin]
  · rfl

theorem laneOn_admin (s : State) (i : StreamId) : (s.laneOn i).admin = s.admin := by
  unfold State.laneOn
  split <;> rfl

theorem setLaneEnable_admin (s : State) (i : StreamId) (on : Bool) : (s.setLaneEnable i on).admin = s.admin := by
  unfold State.setLaneEnable
  dsimp only
  repeat' split
  · rfl
  · rw [laneOn_admin, State.onStream_admin]
  · rw [laneOff_admin, State.onStream_admin]

theorem abortCaptures_admin (s : State) (i : StreamId) : (s.abortCaptures i).admin = s.admin := by
  rw [State.abortCaptures_eq]
  rfl

/-- The command in execution completes, and the unit is empty but for the waiting command (R155). -/
theorem complete_admin {s : State} (h : s.admin.executing ≠ none) (x : Status) (d : Word) :
    (s.complete x d).admin = ⟨none, s.admin.waiting, none, none, none⟩ := by
  unfold State.complete
  split
  · rfl
  · next e => exact absurd e h

/-- An Admin Unit whose abort, if it has one, belongs to a command in execution. -/
def AbortInExecution (s : State) : Prop := s.admin.abort ≠ none → s.admin.executing ≠ none

/-- What carrying out a command leaves of the Admin Unit: the waiting command, and either the command in execution or
nothing more (R155). -/
def CarriesOut (s t : State) : Prop :=
  t.admin.waiting = s.admin.waiting ∧ (t.admin.executing = s.admin.executing ∨ t.admin = ⟨none, s.admin.waiting, none, none, none⟩)

theorem carriesOut_complete {s t : State} (h : s.admin.executing ≠ none) (e : t.admin = s.admin) (x : Status) (d : Word) :
    CarriesOut s (t.complete x d) := by
  have k := complete_admin (s := t) (by rw [e]; exact h) x d
  rw [e] at k
  exact ⟨by rw [k], .inr k⟩

theorem run_carriesOut {s : State} (h : s.admin.executing ≠ none) (op : Option AdminOp) : CarriesOut s (s.run op) := by
  have done : ∀ {t : State} (x : Status) (d : Word), t.admin = s.admin → CarriesOut s (t.complete x d) :=
    fun x d e => carriesOut_complete h e x d
  unfold State.run
  split
  · exact done _ _ rfl
  · unfold State.runCreateRing
    dsimp only
    split <;> exact done _ _ rfl
  · unfold State.runDeleteRing
    dsimp only
    repeat' split
    · exact done _ _ rfl
    · exact done _ _ rfl
    · exact done _ _ (admin_heads.breakGroupsOf _ _)
  · unfold State.runResumeStream
    dsimp only
    repeat' split
    all_goals exact done _ _ rfl
  · unfold State.runConfigureStream
    repeat' split
    · exact done _ _ rfl
    · exact done _ _ (setLaneEnable_admin _ _ _)
    · exact done _ _ rfl
  · unfold State.runLoadDefects
    repeat' split
    · exact done _ _ rfl
    · exact ⟨rfl, .inl rfl⟩
    · exact done _ _ rfl
  · next i =>
    unfold State.runAbortStream
    dsimp only
    split
    · exact done _ _ rfl
    · refine ⟨?_, .inl ?_⟩ <;> rw [admin_heads.breakGroupsOf, abortCaptures_admin, admin_heads.abortList]
      all_goals rfl
  · unfold State.runOpenGroup
    repeat' split
    all_goals exact done _ _ rfl
  · unfold State.runCloseGroup
    split
    · exact done _ _ rfl
    · exact done _ _ (admin_heads.breakGroup _ _)
  · unfold State.runReadStats
    dsimp only
    split
    · exact ⟨rfl, .inl rfl⟩
    · exact done _ _ rfl

theorem startWaiting_idle {s : State} (h : s.canStart = false) : s.startWaiting = s := by
  unfold State.startWaiting
  split
  · next cmd he hw =>
    rw [if_neg]
    intro hd
    simp [State.canStart, he, hw, hd] at h
  · rfl

/-- A waiting command that starts is not waiting any more, and an abort it begins is its own (R155). -/
theorem startWaiting_started {s : State} (h : s.canStart = true) :
    s.startWaiting.admin.waiting = none ∧ AbortInExecution s.startWaiting := by
  simp only [State.canStart, Bool.and_eq_true, Option.isNone_iff_eq_none, decide_eq_true_eq] at h
  obtain ⟨⟨he, hw⟩, hd⟩ := h
  obtain ⟨cmd, hw⟩ := Option.isSome_iff_exists.mp hw
  unfold State.startWaiting
  rw [he, hw]
  dsimp only
  rw [if_pos hd]
  unfold State.startCommand
  obtain ⟨hwait, hrun⟩ := run_carriesOut
    (s := { s with admin := { s.admin with waiting := none, executing := some cmd } }) (Option.some_ne_none cmd) cmd.op
  refine ⟨hwait, fun ha => ?_⟩
  rcases hrun with e | e
  · exact fun hn => Option.some_ne_none cmd (e.symm.trans hn)
  · exact absurd (congrArg AdminUnit.abort e) ha

/-! ## The end of an abort -/

theorem abortEnds_eq (s : State) : s.abortEnds = s
    ∨ ∃ d, s.abortCanEnd = true ∧ s.abortEnds = s.complete .ok d := by
  unfold State.abortEnds
  split
  · next a ha =>
    split
    · next h => exact .inr ⟨_, by rw [State.abortCanEnd, ha]; exact h, rfl⟩
    · exact .inl rfl
  · exact .inl rfl

theorem abortEnds_idle {s : State} (h : s.abortCanEnd = false) : s.abortEnds = s := by
  rcases abortEnds_eq s with e | ⟨d, he, -⟩
  · exact e
  · rw [h] at he; cases he

/-- An abort that has ended is an abort no longer, where it belongs to a command in execution (R169). -/
theorem abortEnds_done {s : State} (ha : AbortInExecution s) : s.abortEnds.abortCanEnd = false := by
  by_cases h : s.abortCanEnd = true
  · have e : s.abortEnds.admin = ⟨none, s.admin.waiting, none, none, none⟩ := by
      unfold State.abortEnds
      unfold State.abortCanEnd at h
      rcases hab : s.admin.abort with _ | a
      · rw [hab] at h; cases h
      · rw [hab, Option.any_some] at h
        dsimp only
        rw [if_pos h]
        exact complete_admin (ha (by rw [hab]; exact Option.some_ne_none a)) _ _
    rw [State.abortCanEnd, e]
    rfl
  · have h : s.abortCanEnd = false := by simpa using h
    rw [abortEnds_idle h, h]

theorem complete_keeps (s : State) (x : Status) (d : Word) :
    captureView (s.complete x d) = captureView s ∧ (s.complete x d).groups = s.groups := by
  unfold State.complete
  split <;> exact ⟨rfl, rfl⟩

theorem abortEnds_keeps (s : State) : captureView s.abortEnds = captureView s ∧ s.abortEnds.groups = s.groups := by
  rcases abortEnds_eq s with e | ⟨d, -, e⟩
  · rw [e]; exact ⟨rfl, rfl⟩
  · rw [e]; exact complete_keeps s _ d

theorem finishCapture_admin (s : State) (i : StreamId) (c : ContextId) :
    (s.finishCapture i c).admin.executing = s.admin.executing ∧ (s.finishCapture i c).admin.waiting = s.admin.waiting
      ∧ (s.finishCapture i c).admin.abort.isSome = s.admin.abort.isSome := by
  unfold State.finishCapture
  split
  · next k _ _ =>
    dsimp only
    rw [admin_heads.memberFinished]
    have hu : ((s.record i k.request k.report).onStream i fun x => { x with contexts := x.contexts.set c none }).admin = s.admin :=
      admin_heads.record s i k.request k.report
    split
    · unfold State.countAborted
      rw [hu]
      simp
    · rw [hu]
      exact ⟨rfl, rfl, rfl⟩
  · exact ⟨rfl, rfl, rfl⟩

theorem finishCaptures_admin (s : State) :
    s.finishCaptures.admin.executing = s.admin.executing ∧ s.finishCaptures.admin.waiting = s.admin.waiting
      ∧ s.finishCaptures.admin.abort.isSome = s.admin.abort.isSome := by
  have k := foldl_keeps (fun s : State => (s.admin.executing, s.admin.waiting, s.admin.abort.isSome))
    (fun s (p : StreamId × ContextId) => s.finishCapture p.1 p.2)
    (fun s p => by
      obtain ⟨he, hw, ha⟩ := finishCapture_admin s p.1 p.2
      rw [he, hw, ha]) contextOrder s
  rw [← finishCaptures_eq] at k
  simpa only [Prod.mk.injEq] using k

theorem abortInExecution_of {s t : State} (he : t.admin.executing = s.admin.executing)
    (ha : t.admin.abort.isSome = s.admin.abort.isSome) (h : AbortInExecution s) : AbortInExecution t := by
  unfold AbortInExecution at h ⊢
  rw [← Option.isSome_iff_ne_none] at h ⊢
  rw [ha, he]
  exact h

/-! ## Everything drained -/

/-- No capture is drained, no group resolves and no abort can end. -/
structure Drained (s : State) : Prop where
  captures : ∀ i c, s.drained i c = false
  groups : ∀ g : GroupId, s.groups[g].resolves = false
  abort : s.abortCanEnd = false

theorem drain_idle {s : State} (h : Drained s) : s.drain = s := by
  unfold State.drain
  rw [finishCaptures_idle h.captures, resolveGroups_idle h.groups, abortEnds_idle h.abort]

theorem drain_done {s : State} (ha : AbortInExecution s) : Drained s.drain := by
  have hfin := finishCaptures_done s
  have hadm := finishCaptures_admin s
  unfold State.drain
  generalize s.finishCaptures = u at hfin hadm
  have hview : captureView u.resolveGroups = captureView u := captureView_heads.resolveGroups u
  have hres := resolveGroups_done u
  have hu : u.resolveGroups.admin = u.admin := admin_heads.resolveGroups u
  generalize u.resolveGroups = v at hview hres hu
  obtain ⟨hv, hg⟩ := abortEnds_keeps v
  refine ⟨fun i c => ?_, fun g => ?_, abortEnds_done ?_⟩
  · rw [drained_of_view (hv.trans hview), hfin]
  · rw [hg, hres]
  · exact abortInExecution_of (by rw [hu, hadm.1]) (by rw [hu, hadm.2.2]) ha

theorem drain_waiting (s : State) : s.drain.admin.waiting = s.admin.waiting := by
  have hadm := finishCaptures_admin s
  unfold State.drain
  generalize s.finishCaptures = u at hadm
  have hu : u.resolveGroups.admin = u.admin := admin_heads.resolveGroups u
  generalize u.resolveGroups = v at hu
  rw [← hadm.2.1, ← hu]
  rcases abortEnds_eq v with e | ⟨d, -, e⟩
  · rw [e]
  · rw [e]
    unfold State.complete
    split <;> rfl

/-- What is left before the endings: nothing drained and nothing that can start. -/
theorem drain_startWaiting_drain {s : State} (ha : AbortInExecution s) :
    Drained s.drain.startWaiting.drain ∧ s.drain.startWaiting.drain.canStart = false := by
  have hd := drain_done ha
  by_cases hc : s.drain.canStart = true
  · obtain ⟨hw, hab⟩ := startWaiting_started hc
    refine ⟨drain_done hab, ?_⟩
    unfold State.canStart
    rw [drain_waiting, hw]
    simp
  · have hc : s.drain.canStart = false := by simpa using hc
    rw [startWaiting_idle hc, drain_idle hd]
    exact ⟨hd, hc⟩

/-! ## Records to queue and the endings -/

/-- In a state that has nothing left but records to queue and an ending that is how far `conclude` goes. -/
theorem conclude_of_drained {s : State} (h : Drained s) (hs : s.canStart = false) : s.conclude = s.enqueue.endings := by
  unfold State.conclude
  rw [drain_idle h, startWaiting_idle hs, drain_idle h]

theorem endings_idle {s : State} (hstop : s.stopEnds = false) (hreset : s.resetEnds = false) : s.endings = s := by
  unfold State.endings
  rw [if_neg (by simp [hstop]), if_neg (by simp [hreset])]

theorem mem_enqueue {s : State} {e : EntryId} :
    e ∈ s.enqueue.postQueue ↔ e ∈ s.postQueue ∨ s.eligible e = true := by
  unfold State.enqueue
  dsimp only
  rw [List.mem_append, List.mem_filter]
  have hmem : e ∈ List.finRange Config.holdingEntries := List.mem_finRange e
  simp only [hmem, true_and, Bool.and_eq_true, Bool.not_eq_true', List.contains_eq_mem, decide_eq_false_iff_not]
  tauto

theorem reset_settled {s : State} (hdev : s.device = .off) (hstreams : s.streams = Vector.replicate 4 .reset)
    (hgroups : s.groups = Vector.replicate 8 .free) (hadmin : s.admin = .idle)
    (hholding : s.holding = Vector.replicate 26 .free) : s.settled where
  captures i c := by
    unfold State.drained State.capture?
    simp [hstreams, StreamState.reset]
  groups g := by
    rw [hgroups, Fin.getElem_fin, Vector.getElem_replicate]
    rfl
  abort := by rw [State.abortCanEnd, hadmin]; rfl
  start := by simp [State.canStart, hadmin, AdminUnit.idle]
  queue e he := by
    simp [State.eligible, hholding, HoldingEntry.free] at he
  stop := by simp [State.stopEnds, hdev]
  reset := by simp [State.resetEnds, hdev]

/-- Afterwards nothing is left that the rules place in the event. -/
theorem conclude_settled {s : State} (ha : AbortInExecution s) : s.conclude.settled := by
  obtain ⟨hd, hs⟩ := drain_startWaiting_drain ha
  unfold State.conclude
  generalize s.drain.startWaiting.drain = m at hd hs
  unfold State.endings
  split
  · exact reset_settled rfl rfl rfl rfl rfl
  · next hstop =>
    split
    · exact reset_settled rfl rfl rfl rfl rfl
    · next hreset =>
      exact ⟨hd.captures, hd.groups, hd.abort, hs, fun e he => mem_enqueue.mpr (.inr he), by simpa using hstop,
        by simpa using hreset⟩

/-! ## Eligible entries -/

theorem eligible_iff (s : State) (e : EntryId) : s.eligible e = true ↔ s.holding[e].state = .ready ∧ ∀ f : EntryId,
    ringOfEntry f = ringOfEntry e → s.holding[f].order < s.holding[e].order →
    s.holding[f].state = .free ∨ s.holding[f].state = .posting := by
  unfold State.eligible entriesOf
  rw [Bool.and_eq_true, decide_eq_true_eq, List.all_eq_true]
  refine and_congr_right fun _ => forall_congr' fun f => ?_
  rw [List.mem_filter, decide_eq_true_eq]
  simp only [List.mem_finRange, true_and, Bool.or_eq_true, decide_eq_true_eq]
  refine forall_congr' fun _ => ?_
  rw [or_assoc, ← not_lt, ← imp_iff_not_or]

/-- Where no two entries in use of a ring have one place, a ring has one eligible entry at most (R145). -/
theorem eligible_unique {s : State} (hplace : ∀ e f : EntryId, s.holding[e].state ≠ .free → s.holding[f].state ≠ .free →
      ringOfEntry e = ringOfEntry f → s.holding[e].order = s.holding[f].order → e = f) {e f : EntryId}
    (he : s.eligible e = true) (hf : s.eligible f = true) (hring : ringOfEntry e = ringOfEntry f) : e = f := by
  obtain ⟨hready, hbefore⟩ := (eligible_iff s e).mp he
  obtain ⟨hready', hbefore'⟩ := (eligible_iff s f).mp hf
  refine hplace e f (by rw [hready]; decide) (by rw [hready']; decide) hring ?_
  rcases Nat.lt_trichotomy s.holding[e].order s.holding[f].order with h | h | h
  · rcases hbefore' e hring h with k | k <;> rw [hready] at k <;> cases k
  · exact h
  · rcases hbefore f hring.symm h with k | k <;> rw [hready'] at k <;> cases k

/-- A list with one entry of each ring at most has 5 members at most. -/
theorem length_le_rings {l : List EntryId} (hl : l.Nodup) (h : ∀ e ∈ l, ∀ f ∈ l, ringOfEntry e = ringOfEntry f → e = f) :
    l.length ≤ 5 := by
  have hmap : (l.map ringOfEntry).Nodup := hl.map_on h
  have := hmap.length_le_card
  rwa [List.length_map, Fintype.card_fin] at this

theorem nodup_enqueue {s : State} (h : s.postQueue.Nodup) : s.enqueue.postQueue.Nodup := by
  unfold State.enqueue
  refine List.nodup_append.mpr ⟨h, (List.nodup_finRange _).filter _, fun e he f hf hef => ?_⟩
  subst hef
  simp only [List.mem_filter, Bool.and_eq_true, Bool.not_eq_true', List.contains_eq_mem, decide_eq_false_iff_not] at hf
  exact hf.2.2 he

/-- Settles O51: what is idle changes nothing, and the first consequence that is due may be taken ahead of the others. -/
theorem eventsConclude : Obligations.EventsConclude := by
  unfold Obligations.EventsConclude
  intro s
  have hcapture : ∀ i c, exec (.captureFinishes i c) s = .next (if s.drained i c then (s.finishCapture i c).conclude else s) :=
    fun _ _ => rfl
  have hgroup : ∀ g, exec (.groupResolves g) s = .next (if s.groups[g].resolves then (s.resolveGroup g).conclude else s) :=
    fun _ => rfl
  refine ⟨conclude_settled, ?idle, ?first, fun hc => ⟨?group, fun hg => ⟨?abort, fun ha => ⟨?start, fun hs => ⟨?stop, ?reset⟩⟩⟩⟩,
    rfl, eligible_iff s, ?queue⟩
  case idle =>
    intro hc hg ha hs hstop hreset
    rw [conclude_of_drained ⟨hc, hg, ha⟩ hs]
    exact endings_idle hstop hreset
  case first =>
    intro i c hd hfirst
    rw [hcapture, if_pos hd]
    unfold State.conclude
    rw [show (s.finishCapture i c).drain = s.drain from congrArg (fun u : State => u.resolveGroups.abortEnds) (finishCaptures_first hfirst)]
  case group =>
    intro g hg hfirst
    rw [hgroup, if_pos hg]
    have hidle : ∀ i c, (s.resolveGroup g).drained i c = false := fun i c => by
      rw [drained_of_view (captureView_heads.resolveGroup s g), hc]
    have hdrain : (s.resolveGroup g).drain = s.drain := by
      unfold State.drain
      rw [finishCaptures_idle hidle, finishCaptures_idle hc, resolveGroups_first hfirst]
    unfold State.conclude
    rw [hdrain]
  case abort =>
    intro ha
    have hexec : exec .abortStreamCompletes s = .next (if s.abortCanEnd then s.abortEnds.conclude else s) := rfl
    rw [hexec, if_pos ha]
    obtain ⟨hview, hgroups⟩ := abortEnds_keeps s
    have hdrain : s.abortEnds.drain = s.abortEnds.abortEnds := by
      unfold State.drain
      rw [finishCaptures_idle fun i c => by rw [drained_of_view hview, hc], resolveGroups_idle fun g => by rw [hgroups, hg]]
    have hself : s.drain = s.abortEnds := by
      unfold State.drain
      rw [finishCaptures_idle hc, resolveGroups_idle hg]
    have hagain : s.abortEnds.abortEnds = s.abortEnds := by
      by_cases hx : s.admin.executing = none
      · have e : s.abortEnds = s := by
          rcases abortEnds_eq s with e | ⟨d, -, e⟩
          · exact e
          · rw [e]; unfold State.complete; rw [hx]
        rw [e, e]
      · exact abortEnds_idle (abortEnds_done fun _ => hx)
    unfold State.conclude
    rw [hdrain, hagain, hself]
  case start =>
    intro hs
    have hexec : exec .adminCommandStart s = .next (if s.canStart then s.startWaiting.conclude else s) := rfl
    rw [hexec, if_pos hs]
    obtain ⟨hw, hab⟩ := startWaiting_started hs
    have hd := drain_done hab
    have hstart : s.startWaiting.drain.canStart = false := by
      unfold State.canStart
      rw [drain_waiting, hw]
      simp
    unfold State.conclude
    rw [startWaiting_idle hstart, drain_idle hd, drain_idle ⟨hc, hg, ha⟩]
  case stop =>
    intro hstop
    have hexec : exec .stopCompletes s = .next (if s.stopEnds then s.toStopped else s) := rfl
    rw [hexec, if_pos hstop, conclude_of_drained ⟨hc, hg, ha⟩ hs]
    unfold State.endings
    rw [if_pos (show s.enqueue.stopEnds = true from hstop)]
    rfl
  case reset =>
    intro hreset
    have hexec : exec .softResetEnds s = .next (if s.resetEnds then s.toReset else s) := rfl
    have hstop : s.stopEnds = false := by
      have hd := ((resetEnds_iff s).mp hreset).1
      simp [State.stopEnds, hd]
    rw [hexec, if_pos hreset, conclude_of_drained ⟨hc, hg, ha⟩ hs]
    unfold State.endings
    rw [if_neg (by rw [show s.enqueue.stopEnds = s.stopEnds from rfl, hstop]; decide),
      if_pos (show s.enqueue.resetEnds = true from hreset)]
    rfl
  case queue =>
    intro hqueue hplace
    have hall : ∀ e ∈ s.enqueue.postQueue, s.eligible e = true := fun e he => (mem_enqueue.mp he).elim (hqueue e) id
    have hone : ∀ e ∈ s.enqueue.postQueue, ∀ f ∈ s.enqueue.postQueue, ringOfEntry e = ringOfEntry f → e = f :=
      fun e he f hf => eligible_unique hplace (hall e he) (hall f hf)
    exact ⟨hone, fun hn => length_le_rings (nodup_enqueue hn) hone⟩

end Sys2Proof.Proofs
end

section
/-! The Group Table (R121, R122, R125–R128): O45, O46, and what a finish does to its group, O44. -/
namespace Sys2Proof.Proofs
open Sys2Proof.Machine

/-! ## Folds of updates at single places -/

section
variable {ι α : Type} {n : Nat}

/-- A member of a list updates the place it names, if it names one. -/
def pointUpdate (place : ι → Option (Fin n × (α → α))) (v : Vector α n) (i : ι) : Vector α n :=
  match place i with
  | some (j, f) => v.set j (f v[j])
  | none => v

theorem pointUpdate_get {place : ι → Option (Fin n × (α → α))} {i : ι} {j : Fin n} {f : α → α} (h : place i = some (j, f))
    (v : Vector α n) : (pointUpdate place v i)[j] = f v[j] := by
  rw [pointUpdate, h]
  dsimp only
  rw [get_set, if_pos rfl]

theorem pointUpdate_get_ne {place : ι → Option (Fin n × (α → α))} {i : ι} {k : Fin n}
    (h : ∀ j f, place i = some (j, f) → j ≠ k) (v : Vector α n) : (pointUpdate place v i)[k] = v[k] := by
  unfold pointUpdate
  split
  · next j f e => rw [get_set, if_neg fun hk => h j f e hk.symm]
  · rfl

/-- A place that no member names stays as it is. -/
theorem foldl_pointUpdate_other {place : ι → Option (Fin n × (α → α))} {l : List ι} {k : Fin n}
    (h : ∀ i ∈ l, ∀ j f, place i = some (j, f) → j ≠ k) (v : Vector α n) : (l.foldl (pointUpdate place) v)[k] = v[k] := by
  induction l generalizing v with
  | nil => rfl
  | cons i l ih =>
    rw [List.foldl_cons, ih (fun a ha => h a (List.mem_cons_of_mem i ha)),
      pointUpdate_get_ne (h i List.mem_cons_self)]

/-- A place that one member names alone is updated once. -/
theorem foldl_pointUpdate_own {place : ι → Option (Fin n × (α → α))} {l : List ι} (hl : l.Nodup) {i : ι} (hi : i ∈ l)
    {j : Fin n} {f : α → α} (hij : place i = some (j, f))
    (h : ∀ k ∈ l, k ≠ i → ∀ a g, place k = some (a, g) → a ≠ j) (v : Vector α n) :
    (l.foldl (pointUpdate place) v)[j] = f v[j] := by
  obtain ⟨as, bs, rfl⟩ := List.append_of_mem hi
  have hne : ∀ k, k ∈ as ∨ k ∈ bs → k ≠ i := by
    rintro k hk rfl
    rw [List.nodup_append, List.nodup_cons] at hl
    exact hk.elim (fun hk => hl.2.2 k hk k List.mem_cons_self rfl) (fun hk => hl.2.1.1 hk)
  have has : ∀ k ∈ as, ∀ a g, place k = some (a, g) → a ≠ j := fun k hk => h k (by simp [hk]) (hne k (.inl hk))
  have hbs : ∀ k ∈ bs, ∀ a g, place k = some (a, g) → a ≠ j := fun k hk => h k (by simp [hk]) (hne k (.inr hk))
  rw [List.foldl_append, List.foldl_cons, foldl_pointUpdate_other hbs, pointUpdate_get hij, foldl_pointUpdate_other has]

end

/-! ## Resolution -/

/-- The entry that a finished member of a group releases, and how (R128). -/
def releasePlace (e : Group) (i : StreamId) : Option (EntryId × (HoldingEntry → HoldingEntry)) :=
  if e.slots[i].progress = .finished then
    e.slots[i].request.map fun q => (q.entry, fun h => { h with state := .ready, groupStatus := e.verdict, counted := q.notify })
  else none

theorem releasePlace_eq_some {e : Group} {i : StreamId} {x : EntryId} {f : HoldingEntry → HoldingEntry}
    (h : releasePlace e i = some (x, f)) : ∃ q, e.slots[i].progress = .finished ∧ e.slots[i].request = some q ∧ q.entry = x := by
  unfold releasePlace at h
  split at h
  · next hp =>
    obtain ⟨q, hq, e⟩ := Option.map_eq_some_iff.mp h
    exact ⟨q, hp, hq, congrArg Prod.fst e⟩
  · cases h

theorem releasePlace_of {e : Group} {i : StreamId} {q : Request} (hp : e.slots[i].progress = .finished)
    (hq : e.slots[i].request = some q) : releasePlace e i
      = some (q.entry, fun h => { h with state := .ready, groupStatus := e.verdict, counted := q.notify }) := by
  unfold releasePlace
  rw [if_pos hp, hq]
  rfl

theorem releaseMember_eq (s : State) (e : Group) (i : StreamId) :
    s.releaseMember e.verdict e i = { s with holding := pointUpdate (releasePlace e) s.holding i } := by
  unfold State.releaseMember
  split
  · next q hp hq =>
    rw [pointUpdate, releasePlace_of hp hq]
    rfl
  · next hn =>
    have hnone : releasePlace e i = none := by
      rw [Option.eq_none_iff_forall_ne_some]
      rintro ⟨x, f⟩ h
      obtain ⟨q, hp, hq, -⟩ := releasePlace_eq_some h
      exact hn q hp hq
    rw [pointUpdate, hnone]

theorem releaseMembers_eq (e : Group) (l : List StreamId) (s : State) :
    l.foldl (State.releaseMember e.verdict e) s = { s with holding := l.foldl (pointUpdate (releasePlace e)) s.holding } := by
  induction l generalizing s with
  | nil => rfl
  | cons i l ih => rw [List.foldl_cons, ih, releaseMember_eq]; rfl

/-- A group that resolves (R128). -/
theorem resolveGroup_eq {s : State} {g : GroupId} {e : Group} (he : s.groups[g] = e) (h : e.resolves = true) :
    s.resolveGroup g = { s with
      holding := (List.finRange 4).foldl (pointUpdate (releasePlace e)) s.holding, groups := s.groups.set g .free } := by
  unfold State.resolveGroup
  dsimp only
  rw [he, if_pos h, releaseMembers_eq]
  rfl

theorem resolves_iff (e : Group) : e.resolves = true ↔
    (e.state = .fixed ∧ ∀ i : StreamId, e.mask[i] = true → e.slots[i].progress = .finished)
    ∨ (e.state = .broken ∧ ∀ i : StreamId, e.slots[i].progress = .empty ∨ e.slots[i].progress = .finished) := by
  unfold Group.resolves
  split <;> next h => simp [h, List.all_eq_true, or_iff_not_imp_left]

theorem not_resolves {e : Group} (h : e.state = .free ∨ e.state = .opened
    ∨ (e.state = .fixed ∧ ∃ i : StreamId, e.mask[i] = true ∧ e.slots[i].progress ≠ .finished)
    ∨ (e.state = .broken ∧ ∃ i : StreamId, e.slots[i].progress = .registered ∨ e.slots[i].progress = .bound)) :
    e.resolves = false := by
  rw [← Bool.not_eq_true, resolves_iff]
  rintro (⟨hs, hall⟩ | ⟨hs, hall⟩)
  · rcases h with h | h | ⟨-, i, hm, hp⟩ | ⟨h, -⟩
    · rw [hs] at h; cases h
    · rw [hs] at h; cases h
    · exact hp (hall i hm)
    · rw [hs] at h; cases h
  · rcases h with h | h | ⟨h, -⟩ | ⟨-, i, hp⟩
    · rw [hs] at h; cases h
    · rw [hs] at h; cases h
    · rw [hs] at h; cases h
    · rcases hp with hp | hp <;> rcases hall i with k | k <;> rw [hp] at k <;> cases k

/-! ## The break -/

/-- The entry that a registered member of a group leaves PARKED at the break (R122, R125). -/
def parkPlace (e : Group) (i : StreamId) : Option (EntryId × (HoldingEntry → HoldingEntry)) :=
  e.slots[i].request.map fun q => (q.entry, fun h => { h with state := .parked, report := .unbound .groupBroken q.tag 0 })

/-- The list that a registered member of a group leaves at the break (R54). -/
def unlistPlace (e : Group) (i : StreamId) : Option (StreamId × (StreamState → StreamState)) :=
  e.slots[i].request.map fun q =>
    (i, fun x => { x with prefetch := x.prefetch.filter fun r => decide (r.entry ≠ q.entry), deadline := none })

theorem parkPlace_of {e : Group} {i : StreamId} {q : Request} (hq : e.slots[i].request = some q) : parkPlace e i
    = some (q.entry, fun h => { h with state := .parked, report := .unbound .groupBroken q.tag 0 }) := by
  unfold parkPlace
  rw [hq]
  rfl

theorem unlistPlace_of {e : Group} {i : StreamId} {q : Request} (hq : e.slots[i].request = some q) : unlistPlace e i
    = some (i, fun x => { x with prefetch := x.prefetch.filter fun r => decide (r.entry ≠ q.entry), deadline := none }) := by
  unfold unlistPlace
  rw [hq]
  rfl

/-- The slot of a registered member at the break (R121). -/
def brokenPlace (i : StreamId) : Option (StreamId × (MemberSlot → MemberSlot)) :=
  some (i, fun m => ⟨.finished, m.request, some .groupBroken⟩)

/-- A registered member finishes GROUP_BROKEN (R54, R122). -/
theorem breakMember_eq (s : State) (g : GroupId) (i : StreamId) : s.breakMember g i = { s with
    streams := pointUpdate (unlistPlace s.groups[g]) s.streams i
    holding := pointUpdate (parkPlace s.groups[g]) s.holding i
    groups := s.groups.set g { s.groups[g] with slots := pointUpdate brokenPlace s.groups[g].slots i } } := by
  unfold State.breakMember pointUpdate unlistPlace parkPlace brokenPlace
  cases hq : s.groups[g].slots[i].request with
  | none =>
    simp only [Option.map_none]
    rw [hq]
    rfl
  | some q =>
    simp only [Option.map_some]
    rw [hq]
    rfl

/-- Members that finish GROUP_BROKEN one after the other, each with the request that its slot holds in `e`. -/
theorem breakMembers_eq (g : GroupId) (e : Group) {l : List StreamId} (hl : l.Nodup) (s : State)
    (h : ∀ i ∈ l, s.groups[g].slots[i].request = e.slots[i].request) :
    l.foldl (State.breakMember g) s = { s with
      streams := l.foldl (pointUpdate (unlistPlace e)) s.streams
      holding := l.foldl (pointUpdate (parkPlace e)) s.holding
      groups := s.groups.set g { s.groups[g] with slots := l.foldl (pointUpdate brokenPlace) s.groups[g].slots } } := by
  induction l generalizing s with
  | nil =>
    have self : s.groups.set g s.groups[g] = s.groups := Vector.set_getElem_self ..
    simp only [List.foldl_nil, self]
  | cons i l ih =>
    obtain ⟨hi, hl⟩ := List.nodup_cons.mp hl
    have hreq := h i List.mem_cons_self
    have hpark : pointUpdate (parkPlace s.groups[g]) s.holding i = pointUpdate (parkPlace e) s.holding i := by
      unfold pointUpdate parkPlace; rw [hreq]
    have hunlist : pointUpdate (unlistPlace s.groups[g]) s.streams i = pointUpdate (unlistPlace e) s.streams i := by
      unfold pointUpdate unlistPlace; rw [hreq]
    rw [List.foldl_cons, breakMember_eq, hpark, hunlist, ih hl]
    · simp only [List.foldl_cons, Fin.getElem_fin, Vector.getElem_set_self, Vector.set_set]
    · intro k hk
      have hne : k ≠ i := fun e => hi (e ▸ hk)
      dsimp only
      rw [get_set, if_pos rfl]
      dsimp only
      rw [pointUpdate_get_ne (fun j f hj => by
        obtain ⟨rfl, -⟩ := Prod.mk.inj (Option.some.inj hj); exact hne.symm)]
      exact h k (List.mem_cons_of_mem i hk)

theorem waiting_nodup (e : Group) : e.waiting.Nodup := (List.nodup_finRange 4).filter _

theorem mem_waiting {e : Group} {i : StreamId} : i ∈ e.waiting ↔ e.slots[i].progress = .registered := by
  unfold Group.waiting
  rw [List.mem_filter, decide_eq_true_eq]
  exact and_iff_right (List.mem_finRange i)

/-- The group as a break leaves it: BROKEN, its timer stopped, its registered members finished (R122). -/
def brokenGroup (e : Group) : Group :=
  { e with
    state := .broken, timer := none
    slots := e.slots.map fun m : MemberSlot =>
      if m.progress = SlotProgress.registered then ⟨.finished, m.request, some .groupBroken⟩ else m }

theorem brokenSlots_eq (e : Group) : e.waiting.foldl (pointUpdate brokenPlace) e.slots = (brokenGroup e).slots := by
  ext1 k hk
  let i : StreamId := ⟨k, hk⟩
  unfold brokenGroup
  rw [Vector.getElem_map]
  change (e.waiting.foldl (pointUpdate brokenPlace) e.slots)[i] = if e.slots[i].progress = .registered then _ else e.slots[i]
  by_cases h : e.slots[i].progress = .registered
  · rw [if_pos h, foldl_pointUpdate_own (waiting_nodup e) (mem_waiting.mpr h) (f := fun m => ⟨.finished, m.request, some .groupBroken⟩) rfl]
    · rfl
    · intro k _ hne a f hk
      obtain ⟨rfl, -⟩ := Prod.mk.inj (Option.some.inj hk)
      exact hne
  · rw [if_neg h, foldl_pointUpdate_other]
    intro k hk a f hka
    obtain ⟨rfl, -⟩ := Prod.mk.inj (Option.some.inj hka)
    rintro rfl
    exact h (mem_waiting.mp hk)

/-- The state in which the registered members of a broken group have finished, before the test of R127. -/
def membersBroken (s : State) (g : GroupId) (e : Group) : State :=
  { s with
    streams := e.waiting.foldl (pointUpdate (unlistPlace e)) s.streams
    holding := e.waiting.foldl (pointUpdate (parkPlace e)) s.holding
    groups := s.groups.set g (brokenGroup e) }

/-- The break of an OPEN or FIXED group (R122, R127). -/
theorem breakGroup_eq {s : State} {g : GroupId} {e : Group} (he : s.groups[g] = e) (h : e.state = .opened ∨ e.state = .fixed) :
    s.breakGroup g = e.waiting.foldl (fun u i => adoptHead i u.streams[i].prefetch u)
      ((membersBroken s g e).resolveGroup g) := by
  unfold State.breakGroup
  dsimp only
  rw [he, if_pos (by rwa [Bool.or_eq_true, decide_eq_true_eq, decide_eq_true_eq])]
  have hg : (s.onGroup g fun e => { e with state := .broken, timer := none }).groups[g] = { e with state := .broken, timer := none } := by
    rw [State.onGroup_get, he]
  have hm : e.waiting.foldl (State.breakMember g) (s.onGroup g fun e => { e with state := .broken, timer := none })
      = membersBroken s g e := by
    rw [breakMembers_eq g e (waiting_nodup e) _ (fun i _ => by rw [hg]), hg]
    dsimp only
    rw [brokenSlots_eq]
    unfold membersBroken State.onGroup
    dsimp only
    rw [Vector.set_set]
    rfl
  rw [hm]
  rfl

theorem breakGroup_same {s : State} {g : GroupId} (h : s.groups[g].state = .free ∨ s.groups[g].state = .broken) :
    s.breakGroup g = s := by
  unfold State.breakGroup
  dsimp only
  rw [if_neg]
  rcases h with h | h <;> rw [h] <;> decide

/-! ## What a new head leaves of the groups -/

/-- Whether a group can resolve, with its state and mask. -/
def groupView (k : GroupId) (s : State) : GroupState × Vector Bool 4 × Bool :=
  (s.groups[k].state, s.groups[k].mask, s.groups[k].resolves)

/-- A slot that was empty takes a request without its group resolving by it (R116, R117). -/
theorem resolves_setSlot {e : Group} {i : StreamId} {m : MemberSlot} (hempty : e.slots[i].progress = .empty)
    (hmask : e.mask[i] = true) (hbroken : e.state = .broken → m.progress = .finished) (hfixed : e.state ≠ .broken → m.progress ≠ .finished) :
    (e.setSlot i m).resolves = e.resolves := by
  have hslot : ∀ k : StreamId, (e.setSlot i m).slots[k] = if k = i then m else e.slots[k] := fun k => get_set _ _ _ _
  rw [Bool.eq_iff_iff, resolves_iff, resolves_iff]
  change (e.state = .fixed ∧ ∀ k : StreamId, e.mask[k] = true → (e.setSlot i m).slots[k].progress = .finished)
      ∨ (e.state = .broken ∧ ∀ k : StreamId, (e.setSlot i m).slots[k].progress = .empty ∨ (e.setSlot i m).slots[k].progress = .finished) ↔ _
  simp only [hslot]
  refine or_congr (and_congr_right fun hs => ?_) (and_congr_right fun hs => ?_)
  · have hne : m.progress ≠ .finished := hfixed (by rw [hs]; decide)
    refine iff_of_false (fun h => ?_) fun h => ?_
    · have := h i hmask
      rw [if_pos rfl] at this
      exact hne this
    · have := h i hmask
      rw [hempty] at this
      cases this
  · refine forall_congr' fun k => ?_
    split
    · next hk =>
      subst hk
      exact iff_of_true (.inr (hbroken hs)) (.inl hempty)
    · rfl

theorem groupView_set {s : State} {g : GroupId} {x : Group} (hs : x.state = s.groups[g].state) (hm : x.mask = s.groups[g].mask)
    (hr : x.resolves = s.groups[g].resolves) (k : GroupId) : groupView k { s with groups := s.groups.set g x } = groupView k s := by
  unfold groupView
  dsimp only
  rw [get_set]
  split
  · next e => rw [e, hs, hm, hr]
  · rfl

/-- A request that registers changes no group's state, and no group can resolve by it (R116, R117). -/
theorem groupView_register (k : GroupId) (s : State) (i : StreamId) (q : Request) :
    groupView k (s.register i q).1 = groupView k s := by
  unfold State.register
  split
  · rfl
  · next g _ =>
    dsimp only
    split
    · rfl
    · next hc =>
      simp only [Bool.or_eq_true, decide_eq_true_eq, Bool.not_eq_true', bne_iff_ne, ne_eq, not_or, Bool.not_eq_false,
        not_not] at hc
      obtain ⟨⟨-, hmask⟩, hempty⟩ := hc
      split
      · next hb =>
        exact groupView_set (s := s.entryParked q.entry (q.unboundReport .groupBroken)) (x := s.groups[g].setSlot i (.done q .groupBroken))
          rfl rfl (resolves_setSlot hempty hmask (fun _ => rfl) fun h => absurd hb h) k
      · next hb =>
        exact groupView_set (s := s) (x := s.groups[g].setSlot i ⟨.registered, some q, none⟩)
          rfl rfl (resolves_setSlot hempty hmask (fun h => absurd h hb) fun _ h => by cases h) k

theorem groupView_adoptHead (k : GroupId) (i : StreamId) (l : List Request) (s : State) :
    groupView k (adoptHead i l s) = groupView k s := by
  induction l generalizing s with
  | nil => rfl
  | cons q l ih =>
    unfold adoptHead
    split
    · exact ih _
    · have h := groupView_register k s i q
      split
      · next e => rw [e] at h; exact h
      · next e => rw [e] at h; exact (ih _).trans h

theorem groupView_newHeads (k : GroupId) (l : List StreamId) (s : State) :
    groupView k (l.foldl (fun u i => adoptHead i u.streams[i].prefetch u) s) = groupView k s :=
  foldl_keeps (groupView k) _ (fun u i => groupView_adoptHead k i _ u) l s

/-- A group that has broken cannot resolve: it has, or it awaits a bound member (R127). -/
theorem breakGroup_resolves {s : State} {g : GroupId} (h : s.groups[g].state = .opened ∨ s.groups[g].state = .fixed) :
    (s.breakGroup g).groups[g].resolves = false := by
  rw [breakGroup_eq rfl h]
  refine (congrArg (fun v => v.2.2) (groupView_newHeads g _ _)).trans ?_
  exact groupIdle_done _ g

/-- Settles O45: the release and the break as updates of the entries, slots and lists of the members, each its own. -/
theorem groupResolves : Obligations.GroupResolves := by
  unfold Obligations.GroupResolves
  intro s g e he
  have hexec : exec (.groupResolves g) s = .next (if s.groups[g].resolves then (s.resolveGroup g).conclude else s) := rfl
  refine ⟨fun h => ?resolves, fun h => ?stays, fun h => breakGroup_same (by rw [he]; exact h), fun h => ?breaks⟩
  case resolves =>
    have hres : e.resolves = true := (resolves_iff e).mpr h
    refine ⟨_, resolveGroup_eq he hres, by rw [hexec, he, if_pos hres], fun x hx => ?_, fun i q hp hq hother => ?_⟩
    · refine foldl_pointUpdate_other (fun i _ y f hy => ?_) _
      obtain ⟨q, hp, hq, rfl⟩ := releasePlace_eq_some hy
      exact hx i q hp hq
    · rw [foldl_pointUpdate_own (List.nodup_finRange 4) (List.mem_finRange i) (releasePlace_of hp hq)]
      · unfold Group.verdict
        rfl
      · intro k _ hne y f hy
        obtain ⟨r, -, hr, rfl⟩ := releasePlace_eq_some hy
        exact hother k r hne hr
  case stays =>
    have hres : s.groups[g].resolves = false := by rw [he]; exact not_resolves h
    exact ⟨State.resolveGroup_same hres, by rw [hexec, if_neg (by rw [hres]; decide)]⟩
  case breaks =>
    refine ⟨_, _, breakGroup_eq he h, fun i q hp hq => ⟨?_, fun hother => ?_⟩, fun i hi => ?_, fun a ha => ?_⟩
    · refine foldl_pointUpdate_own (waiting_nodup e) (mem_waiting.mpr hp) (unlistPlace_of hq) ?_ _
      intro k _ hne a f hk
      obtain ⟨r, -, e⟩ := Option.map_eq_some_iff.mp hk
      obtain ⟨rfl, -⟩ := Prod.mk.inj e
      exact hne
    · refine foldl_pointUpdate_own (waiting_nodup e) (mem_waiting.mpr hp) (parkPlace_of hq) ?_ _
      intro k hk hne a f hka
      obtain ⟨r, hr, e⟩ := Option.map_eq_some_iff.mp hka
      obtain ⟨rfl, -⟩ := Prod.mk.inj e
      exact hother k r hne (mem_waiting.mp hk) hr
    · refine foldl_pointUpdate_other (fun k hk a f hka => ?_) _
      obtain ⟨r, hr, e⟩ := Option.map_eq_some_iff.mp hka
      obtain ⟨rfl, -⟩ := Prod.mk.inj e
      rintro rfl
      rcases hi with hi | hi
      · exact hi (mem_waiting.mp hk)
      · rw [hi] at hr; cases hr
    · refine foldl_pointUpdate_other (fun k hk x f hkx => ?_) _
      obtain ⟨r, hr, e⟩ := Option.map_eq_some_iff.mp hkx
      obtain ⟨rfl, -⟩ := Prod.mk.inj e
      exact ha k r (mem_waiting.mp hk) hr

end Sys2Proof.Proofs
end

section
/-! A group's timer, and the captures that finish (R115, R122, R20, R121): O46 and O44. -/
namespace Sys2Proof.Proofs
open Sys2Proof.Machine

/-! ## The group timer -/

/-- A break with no member registered (R122). -/
theorem breakGroup_unregistered {s : State} {g : GroupId} {e : Group} (he : s.groups[g] = e)
    (h : e.state = .opened ∨ e.state = .fixed) (hn : ∀ i : StreamId, e.slots[i].progress ≠ .registered) :
    s.breakGroup g = { s with groups := s.groups.set g { e with state := .broken, timer := none } }.resolveGroup g := by
  have hw : e.waiting = [] := List.eq_nil_iff_forall_not_mem.mpr fun i hi => hn i (mem_waiting.mp hi)
  have hslots : (brokenGroup e).slots = e.slots := by rw [← brokenSlots_eq, hw]; rfl
  have hb : brokenGroup e = { e with state := .broken, timer := none } :=
    congrArg (fun v => ({ e with state := .broken, timer := none, slots := v } : Group)) hslots
  rw [breakGroup_eq he h, membersBroken, hw, hb]
  rfl

/-- A list that is empty has no new head. -/
theorem adoptHead_nil {s : State} {i : StreamId} (hp : s.streams[i].prefetch = []) (hd : s.streams[i].deadline = none) :
    adoptHead i [] s = s := by
  unfold adoptHead
  refine State.onStream_same ?_
  generalize s.streams[i] = x at hp hd
  rw [← hp, ← hd]

theorem streams_resolveGroup (s : State) (g : GroupId) : (s.resolveGroup g).streams = s.streams := by
  by_cases h : s.groups[g].resolves = true
  · rw [resolveGroup_eq rfl h]
  · rw [State.resolveGroup_same (by simpa using h)]

/-- A break with one member registered, alone in its list (R122, R54). -/
theorem breakGroup_single {s : State} {g : GroupId} {e : Group} (he : s.groups[g] = e) (h : e.state = .opened ∨ e.state = .fixed)
    {i : StreamId} {q : Request} (hi : e.slots[i] = ⟨.registered, some q, none⟩) (hl : s.streams[i].prefetch = [q])
    (hn : ∀ k : StreamId, k ≠ i → e.slots[k].progress ≠ .registered) :
    s.breakGroup g = ({ s.withStream i { s.streams[i] with prefetch := [], deadline := none } with
      groups := s.groups.set g { e with
        state := .broken, timer := none, slots := e.slots.set i ⟨.finished, some q, some .groupBroken⟩ }
      holding := s.holding.set q.entry { s.holding[q.entry] with
        state := .parked, report := .unbound .groupBroken q.tag 0 } } : State).resolveGroup g := by
  have hreq : e.slots[i].request = some q := by rw [hi]
  have hw : e.waiting = [i] := by
    have hmem : ∀ k, k ∈ e.waiting ↔ k = i := fun k => by
      rw [mem_waiting]
      refine ⟨fun hk => by_contra fun hne => hn k hne hk, ?_⟩
      rintro rfl
      rw [hi]
    have hperm : e.waiting.Perm [i] :=
      (List.perm_ext_iff_of_nodup (waiting_nodup e) (List.nodup_singleton i)).mpr fun k => by rw [hmem, List.mem_singleton]
    exact List.perm_singleton.mp hperm
  have hslots : (brokenGroup e).slots = e.slots.set i ⟨.finished, some q, some .groupBroken⟩ := by
    rw [← brokenSlots_eq, hw]
    change pointUpdate brokenPlace e.slots i = _
    simp only [pointUpdate, brokenPlace]
    rw [hreq]
  have hb : brokenGroup e = { e with state := .broken, timer := none, slots := e.slots.set i ⟨.finished, some q, some .groupBroken⟩ } :=
    congrArg (fun v => ({ e with state := .broken, timer := none, slots := v } : Group)) hslots
  have hu : membersBroken s g e = { s.withStream i { s.streams[i] with prefetch := [], deadline := none } with
      groups := s.groups.set g { e with
        state := .broken, timer := none, slots := e.slots.set i ⟨.finished, some q, some .groupBroken⟩ }
      holding := s.holding.set q.entry { s.holding[q.entry] with
        state := .parked, report := .unbound .groupBroken q.tag 0 } } := by
    have hstreams : pointUpdate (unlistPlace e) s.streams i
        = s.streams.set i { s.streams[i] with prefetch := [], deadline := none } := by
      rw [pointUpdate, unlistPlace_of hreq]
      dsimp only
      rw [hl, List.filter_singleton]
      simp
    have hholding : pointUpdate (parkPlace e) s.holding i = s.holding.set q.entry { s.holding[q.entry] with
        state := .parked, report := .unbound .groupBroken q.tag 0 } := by
      rw [pointUpdate, parkPlace_of hreq]
    rw [membersBroken, hw, hb, List.foldl_cons, List.foldl_nil, List.foldl_cons, List.foldl_nil, hstreams, hholding]
    rfl
  rw [breakGroup_eq he h, hw, hu, List.foldl_cons, List.foldl_nil]
  generalize hv : ({ s.withStream i { s.streams[i] with prefetch := [], deadline := none } with
      groups := s.groups.set g { e with
        state := .broken, timer := none, slots := e.slots.set i ⟨.finished, some q, some .groupBroken⟩ }
      holding := s.holding.set q.entry { s.holding[q.entry] with
        state := .parked, report := .unbound .groupBroken q.tag 0 } } : State) = v
  have hx : v.streams[i] = { s.streams[i] with prefetch := [], deadline := none } := by
    rw [← hv]; exact State.withStream_get s i _
  have hr : (v.resolveGroup g).streams[i] = { s.streams[i] with prefetch := [], deadline := none } := by
    rw [streams_resolveGroup, hx]
  have hpre : (v.resolveGroup g).streams[i].prefetch = [] := by rw [hr]
  rw [hpre]
  exact adoptHead_nil hpre (by rw [hr])

/-- Settles O46: the timer breaks the group; the two cases are the break's lists written out. -/
theorem groupTimesOut : Obligations.GroupTimesOut := by
  unfold Obligations.GroupTimesOut
  intro s g e he
  have hexec : exec (.groupTimeout g) s = .next (match s.groups[g].timer with
      | some start => if ranOut s.timeBase start (s.groups[g].timeout * 1000) then (s.breakGroup g).conclude else s
      | none => s) := rfl
  rw [he] at hexec
  refine ⟨fun start hstart hs => ⟨fun hlt => ?_, fun hle => ?_⟩, fun hnone => ?_⟩
  · rw [hexec, hstart]
    dsimp only
    rw [if_neg (by simpa [ranOut] using hlt)]
  · have hout : exec (.groupTimeout g) s = .next (s.breakGroup g).conclude := by
      rw [hexec, hstart]
      dsimp only
      rw [if_pos (by simpa [ranOut] using hle)]
    refine ⟨hout, fun hn => ?_, fun i q hi hl hn => ?_⟩
    · rw [hout, breakGroup_unregistered he hs hn]
    · rw [hout, breakGroup_single he hs hi hl hn]
  · rw [hexec, hnone]

/-! ## A capture finishes -/

theorem drained_iff {s : State} {i : StreamId} {c : ContextId} : s.drained i c = true ↔ ∃ k, s.streams[i].contexts[c] = some k
    ∧ k.phase = .flushing ∧ k.outstanding = 0 ∧ (∀ h ∈ s.pairing, ¬(h.stream = i ∧ h.context = c))
    ∧ ∀ l ∈ s.streams[i].buffer, l.context ≠ c := by
  unfold State.drained State.capture? State.holdsLines
  cases s.streams[i].contexts[c] with
  | none => simp
  | some k => simp [HeldLine.ownedBy, and_assoc]

/-- The Admin Unit with an abort of the stream counting the capture, if it has finished ABORTED (R169). -/
def abortCounted (a : AdminUnit) (i : StreamId) (aborted : Prop) [Decidable aborted] : AdminUnit :=
  { a with abort := a.abort.map fun a : Abort => if a.stream = i ∧ aborted then { a with count := a.count + 1 } else a }

theorem countAborted_eq (s : State) (i : StreamId) (aborted : Prop) [Decidable aborted] :
    (if aborted then s.countAborted i 1 else s) = { s with admin := abortCounted s.admin i aborted } := by
  unfold abortCounted
  split
  · next h => simp only [h, and_true]; rfl
  · next h => simp only [h, and_false, if_false, Option.map_id']

/-- The context free, the abort told and the outcome recorded: what a finish does before its group is told (R20). -/
def contextFreed (s : State) (i : StreamId) (c : ContextId) (k : Capture) : State :=
  { s.withStream i { s.streams[i] with contexts := s.streams[i].contexts.set c none } with
    admin := abortCounted s.admin i (k.status = .aborted) }

theorem finishCapture_ungrouped {s : State} {i : StreamId} {c : ContextId} {k : Capture} (h : s.drained i c = true)
    (hk : s.streams[i].contexts[c] = some k) (hg : k.request.group = none) :
    s.finishCapture i c = (contextFreed s i c k).withReady k.request.entry k.report k.request.notify := by
  have hk : s.capture? i c = some k := hk
  have hm : s.memberOf i k.request = none := by unfold State.memberOf; rw [hg]
  unfold State.finishCapture
  rw [h, hk]
  dsimp only
  rw [countAborted_eq, State.record, hm]
  rfl

theorem keepsGroup_iff (x : Status) : x.keepsGroup = true ↔ x = .ok ∨ x = .damaged := by
  cases x <;> simp [Status.keepsGroup]

/-- The state in which a group member's capture has finished, its group not yet told. -/
def memberFreed (s : State) (i : StreamId) (c : ContextId) (k : Capture) (g : GroupId) (x : Group) : State :=
  { contextFreed s i c k with
    holding := s.holding.set k.request.entry { s.holding[k.request.entry] with state := .parked, report := k.report }
    groups := s.groups.set g x }

theorem finishCapture_member {s : State} {i : StreamId} {c : ContextId} {k : Capture} {g : GroupId} (h : s.drained i c = true)
    (hk : s.streams[i].contexts[c] = some k) (hg : k.request.group = some g)
    (hslot : s.groups[g].slots[i] = ⟨.bound, some k.request, none⟩) :
    s.finishCapture i c
      = (memberFreed s i c k g (s.groups[g].setSlot i (.done k.request k.status))).memberFinished (some g) k.status := by
  have hk : s.capture? i c = some k := hk
  have hm : s.memberOf i k.request = some g := by
    unfold State.memberOf
    rw [hg]
    dsimp only
    rw [hslot, if_pos (by simp [MemberSlot.holds])]
  unfold State.finishCapture
  rw [h, hk]
  dsimp only
  rw [countAborted_eq, State.record, hm]
  rfl

/-- Settles O44: the request's group, or none, decides where the outcome goes and what is told to the group. -/
theorem captureFinishes : Obligations.CaptureFinishes := by
  unfold Obligations.CaptureFinishes
  intro s i c
  have hexec : exec (.captureFinishes i c) s = .next (if s.drained i c then (s.finishCapture i c).conclude else s) := rfl
  refine ⟨fun k hk hphase hout hheld hbuf a ha => ?finishes, fun h => ?stays⟩
  case finishes =>
    have hd : s.drained i c = true := drained_iff.mpr ⟨k, hk, hphase, hout, hheld, hbuf⟩
    have ha : a = abortCounted s.admin i (k.status = .aborted) := ha
    subst ha
    rw [if_pos hd] at hexec
    refine ⟨fun hg => ?_, fun g e hg he hslot t x hx ht => ?_⟩
    · rw [hexec, finishCapture_ungrouped hd hk hg]
      rfl
    · subst he
      have hfin : s.finishCapture i c = ({ t with groups := s.groups.set g x } : State).memberFinished (some g) k.status := by
        rw [finishCapture_member hd hk hg hslot, ht, hx]
        rfl
      have hget : ({ t with groups := s.groups.set g x } : State).groups[g] = x := by rw [get_set, if_pos rfl]
      have hstate : x.state = s.groups[g].state := by rw [hx]
      rw [hexec, hfin]
      unfold State.memberFinished
      dsimp only
      refine ⟨fun hok => ?_, fun hok hdam => ?_⟩
      · rw [if_pos ((keepsGroup_iff _).mpr hok), State.onGroup, hget, Vector.set_set]
      · rw [if_neg (mt (keepsGroup_iff _).mp (by simp [hok, hdam]))]
        refine ⟨fun ho => ?_, fun hb => ?_⟩
        · rw [State.resolveGroup_same (breakGroup_resolves (by rw [hget, hstate]; exact ho))]
        · rw [breakGroup_same (.inr (by rw [hget, hstate]; exact hb))]
  case stays =>
    rw [hexec, if_neg]
    intro hd
    obtain ⟨k, hk, hphase, hout, hheld, hbuf⟩ := drained_iff.mp hd
    rcases h k hk with h | h | ⟨x, hx, h⟩ | ⟨l, hl, h⟩
    · rw [hphase] at h; cases h
    · omega
    · exact hheld x hx h
    · exact hbuf l hl h

end Sys2Proof.Proofs
end

section
/-! Streams and groups that an abort has emptied, and what the rest of the event keeps of them (R52, R124). -/
namespace Sys2Proof.Proofs
open Sys2Proof.Machine

/-! ## Groups that stay at rest -/

/-- The state and the mask of a group. -/
def groupHead (k : GroupId) (s : State) : GroupState × Vector Bool 4 := (s.groups[k].state, s.groups[k].mask)

/-- Each group has its state and mask as before, or it is FREE or BROKEN now. -/
def Calmer (s t : State) : Prop :=
  ∀ k : GroupId, groupHead k t = groupHead k s ∨ t.groups[k].state = .free ∨ t.groups[k].state = .broken

theorem Calmer.of_eq {s t : State} (h : ∀ k, groupHead k t = groupHead k s) : Calmer s t := fun k => .inl (h k)

theorem Calmer.trans {s t u : State} (h : Calmer s t) (h' : Calmer t u) : Calmer s u := fun k => by
  rcases h' k with e' | e'
  · rcases h k with e | e
    · exact .inl (e'.trans e)
    · exact .inr (by rwa [show u.groups[k].state = t.groups[k].state from congrArg Prod.fst e'])
  · exact .inr e'

theorem groupHead_of_view {s t : State} {k : GroupId} (h : groupView k t = groupView k s) : groupHead k t = groupHead k s :=
  congrArg (fun v => (v.1, v.2.1)) h

/-- A group that takes an entry of the same state and mask. -/
theorem groupHead_onGroup (s : State) (g : GroupId) (f : Group → Group)
    (h : (f s.groups[g]).state = s.groups[g].state ∧ (f s.groups[g]).mask = s.groups[g].mask) (k : GroupId) :
    groupHead k (s.onGroup g f) = groupHead k s := by
  unfold groupHead State.onGroup
  dsimp only
  rw [get_set]
  split
  · next e => rw [e, h.1, h.2]
  · rfl

theorem calmer_set (s : State) (g : GroupId) (x : Group) (h : x.state = .free ∨ x.state = .broken) :
    Calmer s { s with groups := s.groups.set g x } := fun k => by
  unfold groupHead
  dsimp only
  rw [get_set]
  split
  · exact .inr h
  · exact .inl rfl

theorem calmer_resolveGroup (s : State) (g : GroupId) : Calmer s (s.resolveGroup g) := by
  by_cases h : s.groups[g].resolves = true
  · rw [resolveGroup_eq rfl h]
    exact calmer_set s g .free (.inl rfl)
  · rw [State.resolveGroup_same (by simpa using h)]
    exact .of_eq fun _ => rfl

/-- A break leaves its group FREE or BROKEN. -/
theorem calmer_breakGroup (s : State) (g : GroupId) : Calmer s (s.breakGroup g)
    ∧ (s.breakGroup g).groups[g].state ≠ .opened ∧ (s.breakGroup g).groups[g].state ≠ .fixed := by
  by_cases h : s.groups[g].state = .opened ∨ s.groups[g].state = .fixed
  · rw [breakGroup_eq rfl h]
    have hm : Calmer s (membersBroken s g s.groups[g]) := calmer_set s g (brokenGroup s.groups[g]) (.inr rfl)
    have hr := calmer_resolveGroup (membersBroken s g s.groups[g]) g
    have hg : (membersBroken s g s.groups[g]).groups[g].state = .broken := by
      unfold membersBroken; dsimp only; rw [get_set, if_pos rfl]; rfl
    have hstate : ((membersBroken s g s.groups[g]).resolveGroup g).groups[g].state = .free
        ∨ ((membersBroken s g s.groups[g]).resolveGroup g).groups[g].state = .broken := by
      rcases hr g with e | e
      · exact .inr ((congrArg Prod.fst e).trans hg)
      · exact e
    generalize (membersBroken s g s.groups[g]).resolveGroup g = u at hr hstate
    have hview := fun k => groupView_newHeads k s.groups[g].waiting u
    refine ⟨(hm.trans hr).trans (.of_eq fun k => groupHead_of_view (hview k)), ?_⟩
    rw [show (s.groups[g].waiting.foldl (fun u i => adoptHead i u.streams[i].prefetch u) u).groups[g].state = u.groups[g].state
      from congrArg Prod.fst (hview g)]
    rcases hstate with e | e <;> rw [e] <;> decide
  · rw [not_or] at h
    have hs : s.groups[g].state = .free ∨ s.groups[g].state = .broken := by
      cases e : s.groups[g].state with
      | free => exact .inl rfl
      | broken => exact .inr rfl
      | opened => exact absurd e h.1
      | fixed => exact absurd e h.2
    rw [breakGroup_same hs]
    exact ⟨.of_eq fun _ => rfl, h⟩

theorem calmer_memberFinished (s : State) (g : Option GroupId) (x : Status) : Calmer s (s.memberFinished g x) := by
  unfold State.memberFinished
  split
  · exact .of_eq fun _ => rfl
  · next g =>
    refine Calmer.trans ?_ (calmer_resolveGroup _ g)
    split
    · exact .of_eq (groupHead_onGroup s g Group.timed (by unfold Group.timed; split <;> exact ⟨rfl, rfl⟩))
    · exact (calmer_breakGroup s g).1

theorem groupHead_record (s : State) (i : StreamId) (q : Request) (r : Report) (k : GroupId) :
    groupHead k (s.record i q r) = groupHead k s := by
  unfold State.record
  split
  · next g _ => exact groupHead_onGroup (s.entryParked q.entry r) g (·.setSlot i (.done q r.status)) ⟨rfl, rfl⟩ k
  · rfl

theorem calmer_finishCapture (s : State) (i : StreamId) (c : ContextId) : Calmer s (s.finishCapture i c) := by
  unfold State.finishCapture
  split
  · next k _ _ =>
    dsimp only
    refine Calmer.trans (.of_eq fun g => ?_) (calmer_memberFinished _ _ _)
    have hr := groupHead_record s i k.request k.report g
    split <;> exact hr
  · exact .of_eq fun _ => rfl

/-- A relation that each member of a fold keeps to is kept to by the fold. -/
theorem foldl_rel {α : Type} {R : State → State → Prop} (hrefl : ∀ s, R s s) (htrans : ∀ {s t u}, R s t → R t u → R s u)
    {f : State → α → State} (h : ∀ s a, R s (f s a)) (l : List α) (s : State) : R s (l.foldl f s) := by
  induction l generalizing s with
  | nil => exact hrefl s
  | cons a l ih => exact htrans (h s a) (ih _)

theorem calmer_refl (s : State) : Calmer s s := .of_eq fun _ => rfl

theorem calmer_finishCaptures (s : State) : Calmer s s.finishCaptures := by
  rw [finishCaptures_eq]
  exact foldl_rel (R := Calmer) (f := fun s (p : StreamId × ContextId) => s.finishCapture p.1 p.2) calmer_refl Calmer.trans
    (fun s p => calmer_finishCapture s p.1 p.2) contextOrder s

theorem calmer_resolveGroups (s : State) : Calmer s s.resolveGroups :=
  foldl_rel (R := Calmer) (f := State.resolveGroup) calmer_refl Calmer.trans calmer_resolveGroup (List.finRange 8) s

theorem calmer_abortEnds (s : State) : Calmer s s.abortEnds := .of_eq fun k => by
  unfold groupHead
  rw [(abortEnds_keeps s).2]

theorem calmer_drain (s : State) : Calmer s s.drain := by
  unfold State.drain
  exact ((calmer_finishCaptures s).trans (calmer_resolveGroups _)).trans (calmer_abortEnds _)

/-- No group of the masks `M` is OPEN or FIXED. -/
def AtRest (M : Vector Bool 4 → Prop) (s : State) : Prop :=
  ∀ g : GroupId, M s.groups[g].mask → s.groups[g].state ≠ .opened ∧ s.groups[g].state ≠ .fixed

theorem AtRest.calmer {M : Vector Bool 4 → Prop} {s t : State} (h : AtRest M s) (hst : Calmer s t) : AtRest M t := by
  intro g hg
  rcases hst g with e | e | e
  · obtain ⟨hs, hm⟩ := Prod.mk.inj e
    rw [hs]
    exact h g (hm ▸ hg)
  · rw [e]; decide
  · rw [e]; decide

/-- One group is not OPEN or FIXED, if its mask is one of `M`. -/
abbrev GroupRests (M : Vector Bool 4 → Prop) (g : GroupId) (s : State) : Prop :=
  M s.groups[g].mask → s.groups[g].state ≠ .opened ∧ s.groups[g].state ≠ .fixed

theorem groupRests_keep {M : Vector Bool 4 → Prop} {s t : State} (h : Calmer s t) (g : GroupId) (hg : GroupRests M g s) :
    GroupRests M g t := by
  intro hm
  rcases h g with e | e | e
  · obtain ⟨hs, hmask⟩ := Prod.mk.inj e
    rw [hs]
    exact hg (hmask ▸ hm)
  · rw [e]; decide
  · rw [e]; decide

/-- With every group of the masks `M` broken, each in its turn, none is OPEN or FIXED. -/
theorem atRest_of_breaks {M : Vector Bool 4 → Prop} {f : State → GroupId → State}
    (hf : ∀ s g, f s g = s.breakGroup g ∨ (f s g = s ∧ ¬M s.groups[g].mask)) (s : State) :
    AtRest M ((List.finRange 8).foldl f s) := by
  refine fun g => foldl_done (idle := fun g s => GroupRests M g s) (fun s g => ?_) (fun s g k hk => ?_) _ s g (List.mem_finRange g)
  · rcases hf s g with e | ⟨e, hm⟩
    · rw [e]; exact fun _ => (calmer_breakGroup s g).2
    · rw [e]; exact fun h => absurd h hm
  · rcases hf s g with e | ⟨e, -⟩
    · rw [e]; exact groupRests_keep (calmer_breakGroup s g).1 k hk
    · rw [e]; exact hk

theorem atRest_breakGroupsOf (s : State) (i : StreamId) : AtRest (fun m => m[i] = true) (s.breakGroupsOf i) :=
  atRest_of_breaks (fun s g => by
    split
    · exact .inl rfl
    · next h => exact .inr ⟨rfl, h⟩) s

/-! ## Streams that an abort has emptied -/

/-- A stream with no request listed, whose captures have all recorded ABORTED, and with neither a buffered nor a held
line but of the contexts `free`. -/
structure Cleared (free : ContextId → Prop) (i : StreamId) (s : State) : Prop where
  list : s.streams[i].prefetch = [] ∧ s.streams[i].deadline = none
  contexts : ∀ (c : ContextId) k, s.streams[i].contexts[c] = some k → k.phase = .flushing ∧ k.causes.aborted = true
  buffer : ∀ l ∈ s.streams[i].buffer, free l.context
  pairing : ∀ h ∈ s.pairing, h.stream = i → free h.context

section
variable {free : ContextId → Prop} {i : StreamId}

theorem Cleared.of_view {s t : State} (h : Cleared free i s) (hv : captureView t = captureView s)
    (hl : t.streams[i].prefetch = [] ∧ t.streams[i].deadline = none) : Cleared free i t := by
  obtain ⟨hc, hb⟩ := captureView_get hv i
  have hp : t.pairing = s.pairing := congrArg Prod.fst hv
  exact ⟨hl, hc ▸ h.contexts, hb ▸ h.buffer, hp ▸ h.pairing⟩

/-- No request of the stream is listed. -/
abbrev Unlisted (i : StreamId) (s : State) : Prop := s.streams[i].prefetch = [] ∧ s.streams[i].deadline = none

theorem unlisted_of_streams {s t : State} (e : t.streams = s.streams) (h : Unlisted i s) : Unlisted i t := by
  unfold Unlisted; rw [e]; exact h

/-- A MARK that becomes head finishes OK (R15). -/
theorem adoptHead_mark {k : StreamId} {q : Request} {l : List Request} {s : State} (h : q.kind = .mark) :
    adoptHead k (q :: l) s = adoptHead k l (s.entryReady q.entry (q.unboundReport .ok) q.notify) := by
  rw [adoptHead, h]

/-- A CAPTURE that becomes head and stays WAITING (R15, R116). -/
theorem adoptHead_waits {k : StreamId} {q : Request} {l : List Request} {s u : State} (h : q.kind = .capture)
    (hr : s.register k q = (u, true)) : adoptHead k (q :: l) s = u.onStream k fun x =>
      { x with prefetch := q :: l, deadline := if q.deadline = 0 then none else some u.timeBase } := by
  rw [adoptHead, h]
  dsimp only
  rw [hr]

/-- A CAPTURE that its group refuses as it becomes head (R117). -/
theorem adoptHead_refused {k : StreamId} {q : Request} {l : List Request} {s u : State} (h : q.kind = .capture)
    (hr : s.register k q = (u, false)) : adoptHead k (q :: l) s = adoptHead k l u := by
  rw [adoptHead, h]
  dsimp only
  rw [hr]

/-- The list of a stream with no request listed stays empty when its requests, if it had any, would become head. -/
theorem unlisted_adoptHead {s : State} {k : StreamId} {l : List Request} (h : Unlisted i s) (hl : k = i → l = []) :
    Unlisted i (adoptHead k l s) := by
  by_cases hk : k = i
  · subst hk
    rw [hl rfl, adoptHead_nil h.1 h.2]
    exact h
  · have keep : ∀ (u : State) (f : StreamState → StreamState), (u.onStream k f).streams[i] = u.streams[i] :=
      fun u f => State.onStream_get_ne u (fun e => hk e.symm) f
    have streams : ∀ (l : List Request) (u : State), (adoptHead k l u).streams[i] = u.streams[i] := by
      intro l
      induction l with
      | nil => exact fun u => keep u _
      | cons q l ih =>
        intro u
        have hreg : (u.register k q).1.streams = u.streams := by
          unfold State.register
          split
          · rfl
          · dsimp only
            repeat' split
            all_goals rfl
        cases hq : q.kind with
        | mark => rw [adoptHead_mark hq, ih]; rfl
        | capture =>
          rcases e : u.register k q with ⟨v, b⟩
          rw [e] at hreg
          cases b with
          | true => rw [adoptHead_waits hq e, keep, hreg]
          | false => rw [adoptHead_refused hq e, ih, hreg]
    unfold Unlisted
    rw [streams]
    exact h

theorem unlisted_newHead {s : State} (k : StreamId) (h : Unlisted i s) : Unlisted i (s.newHead k) :=
  unlisted_adoptHead h fun e => e ▸ h.1

theorem unlisted_onStream {s : State} {k : StreamId} {f : StreamState → StreamState} (h : Unlisted i s)
    (hf : s.streams[k].prefetch = [] → s.streams[k].deadline = none → (f s.streams[k]).prefetch = [] ∧ (f s.streams[k]).deadline = none) :
    Unlisted i (s.onStream k f) := by
  unfold Unlisted
  by_cases hk : i = k
  · subst hk
    rw [State.onStream_get]
    exact hf h.1 h.2
  · rw [State.onStream_get_ne _ hk]
    exact h

theorem unlisted_foldl {α : Type} {f : State → α → State} (hf : ∀ s a, Unlisted i s → Unlisted i (f s a)) (l : List α) {s : State}
    (h : Unlisted i s) : Unlisted i (l.foldl f s) :=
  foldl_rel (R := fun s t => Unlisted i s → Unlisted i t) (fun _ h => h) (fun h h' hs => h' (h hs)) hf l s h

theorem unlisted_breakMember (g : GroupId) {s : State} (k : StreamId) (h : Unlisted i s) : Unlisted i (s.breakMember g k) := by
  unfold State.breakMember
  split
  · next q _ =>
    refine unlisted_onStream (unlisted_of_streams (s := s) rfl h) fun hp _ => ⟨?_, rfl⟩
    rw [hp]
    rfl
  · exact unlisted_of_streams rfl h

theorem unlisted_resolveGroup (g : GroupId) {s : State} (h : Unlisted i s) : Unlisted i (s.resolveGroup g) :=
  unlisted_of_streams (streams_resolveGroup s g) h

theorem unlisted_breakGroup (g : GroupId) {s : State} (h : Unlisted i s) : Unlisted i (s.breakGroup g) := by
  unfold State.breakGroup
  dsimp only
  split
  · refine unlisted_foldl (fun u k => unlisted_newHead k) _ (unlisted_resolveGroup g ?_)
    exact unlisted_foldl (fun u k => unlisted_breakMember g k) _ (unlisted_of_streams (s := s) rfl h)
  · exact h

theorem unlisted_memberFinished (g : Option GroupId) (x : Status) {s : State} (h : Unlisted i s) :
    Unlisted i (s.memberFinished g x) := by
  unfold State.memberFinished
  split
  · exact h
  · next g =>
    refine unlisted_resolveGroup g ?_
    split
    · exact unlisted_of_streams rfl h
    · exact unlisted_breakGroup g h

theorem streams_record (s : State) (k : StreamId) (q : Request) (r : Report) : (s.record k q r).streams = s.streams := by
  unfold State.record
  split <;> rfl

theorem unlisted_finishCapture {s : State} (k : StreamId) (c : ContextId) (h : Unlisted i s) : Unlisted i (s.finishCapture k c) := by
  unfold State.finishCapture
  split
  · next m _ _ =>
    have hu : Unlisted i ((s.record k m.request m.report).onStream k fun x => { x with contexts := x.contexts.set c none }) :=
      unlisted_onStream (unlisted_of_streams (streams_record s k m.request m.report) h) fun hp hd => ⟨hp, hd⟩
    dsimp only
    refine unlisted_memberFinished _ _ ?_
    split <;> exact hu
  · exact h

/-! ## What the event keeps of an emptied stream -/

theorem Cleared.breakGroup {s : State} (g : GroupId) (h : Cleared free i s) : Cleared free i (s.breakGroup g) :=
  h.of_view (captureView_heads.breakGroup s g) (unlisted_breakGroup g h.list)

theorem Cleared.finishCapture {s : State} (k : StreamId) (c : ContextId) (h : Cleared free i s) :
    Cleared free i (s.finishCapture k c) := by
  by_cases hd : s.drained k c = true
  · have hu : Cleared free i (s.onStream k fun x => { x with contexts := x.contexts.set c none }) := by
      by_cases hk : i = k
      · subst hk
        have hget := State.onStream_get s i fun x => { x with contexts := x.contexts.set c none }
        refine ⟨by rw [hget]; exact h.list, fun d m hm => ?_, by rw [hget]; exact h.buffer, h.pairing⟩
        rw [hget] at hm
        dsimp only at hm
        rw [get_set] at hm
        split at hm
        · cases hm
        · exact h.contexts d m hm
      · have hget := State.onStream_get_ne s hk fun x => { x with contexts := x.contexts.set c none }
        exact ⟨by rw [hget]; exact h.list, by rw [hget]; exact h.contexts, by rw [hget]; exact h.buffer, h.pairing⟩
    exact hu.of_view (captureView_finishCapture hd) (unlisted_finishCapture k c h.list)
  · rw [finishCapture_idle (by simpa using hd)]
    exact h

theorem streams_complete (s : State) (x : Status) (d : Word) : (s.complete x d).streams = s.streams := by
  unfold State.complete
  split <;> rfl

theorem streams_abortEnds (s : State) : s.abortEnds.streams = s.streams := by
  rcases abortEnds_eq s with e | ⟨d, -, e⟩
  · rw [e]
  · rw [e, streams_complete]

theorem cleared_foldl {α : Type} {f : State → α → State} (hf : ∀ s a, Cleared free i s → Cleared free i (f s a)) (l : List α)
    {s : State} (h : Cleared free i s) : Cleared free i (l.foldl f s) :=
  foldl_rel (R := fun s t => Cleared free i s → Cleared free i t) (fun _ h => h) (fun h h' hs => h' (h hs)) hf l s h

theorem Cleared.drain {s : State} (h : Cleared free i s) : Cleared free i s.drain := by
  have hfin : Cleared free i s.finishCaptures := by
    rw [finishCaptures_eq]
    exact cleared_foldl (f := fun s (p : StreamId × ContextId) => s.finishCapture p.1 p.2) (fun _ p hs => hs.finishCapture p.1 p.2)
      contextOrder h
  have hstreams : s.drain.streams = s.finishCaptures.streams := by
    unfold State.drain
    rw [streams_abortEnds]
    exact foldl_keeps State.streams State.resolveGroup (fun s g => streams_resolveGroup s g) (List.finRange 8) s.finishCaptures
  have hview : captureView s.drain = captureView s.finishCaptures := by
    unfold State.drain
    rw [(abortEnds_keeps _).1]
    exact captureView_heads.resolveGroups s.finishCaptures
  exact hfin.of_view hview (unlisted_of_streams hstreams hfin.list)

theorem Cleared.breakGroupsOf {s : State} (k : StreamId) (h : Cleared free i s) : Cleared free i (s.breakGroupsOf k) := by
  refine cleared_foldl (fun s g hs => ?_) (List.finRange 8) h
  split
  · exact hs.breakGroup g
  · exact hs

end

/-! ## The end of the event -/

/-- Where nothing starts and nothing ends, `conclude` drains and queues (R145). -/
theorem conclude_of_quiet {s : State} (hstart : s.drain.canStart = false)
    (hstop : s.drain.drain.enqueue.stopEnds = false) (hreset : s.drain.drain.enqueue.resetEnds = false) :
    s.conclude = s.drain.drain.enqueue := by
  unfold State.conclude
  rw [startWaiting_idle hstart, endings_idle hstop hreset]

theorem outside_drained (s : State) : s.drain.drain.enqueue.outside = s.outside := by
  rw [State.outside_quiet.enqueue, State.outside_quiet.quiet.drain, State.outside_quiet.quiet.drain]

end Sys2Proof.Proofs
end

section
/-! O6: the entry to STOPPING, written out (R196, R51, R52, R158). -/
namespace Sys2Proof.Proofs
open Sys2Proof.Machine

/-! ## Updates of one stream and its held lines -/

/-- A stream is updated, and held lines are released by what the stream was. -/
def localUpdate (F : StreamState → StreamState) (H : StreamId → StreamState → List HeldLine → List HeldLine) (s : State)
    (i : StreamId) : State :=
  { s.withStream i (F s.streams[i]) with pairing := H i s.streams[i] s.pairing }

section
variable {F : StreamState → StreamState} {H : StreamId → StreamState → List HeldLine → List HeldLine}

theorem localUpdate_get_ne {s : State} {i k : StreamId} (h : k ≠ i) : (localUpdate F H s i).streams[k] = s.streams[k] := by
  unfold localUpdate State.withStream
  dsimp only
  rw [get_set, if_neg h]

/-- Such an update between two of the same stream. -/
theorem localUpdate_between (s : State) (i : StreamId) (a b : StreamState → StreamState) :
    (localUpdate F H (s.onStream i a) i).onStream i b
      = { s.withStream i (b (F (a s.streams[i]))) with pairing := H i (a s.streams[i]) s.pairing } := by
  unfold localUpdate
  rw [State.onStream_get]
  unfold State.onStream State.withStream
  dsimp only
  rw [get_set, if_pos rfl, Vector.set_set, Vector.set_set]

/-- Such updates of the streams of a list, each once. -/
theorem foldl_localUpdate {f : State → StreamId → State} {l : List StreamId} (hl : l.Nodup) {s : State}
    (hf : ∀ i ∈ l, ∀ u : State, u.streams[i] = s.streams[i] → f u i = localUpdate F H u i) :
    l.foldl f s = { s with
      streams := l.foldl (fun v (i : StreamId) => v.set i (F v[i])) s.streams
      pairing := l.foldl (fun p i => H i s.streams[i] p) s.pairing } := by
  induction l generalizing s with
  | nil => rfl
  | cons i l ih =>
    obtain ⟨hi, hl⟩ := List.nodup_cons.mp hl
    have hne : ∀ k ∈ l, k ≠ i := fun k hk e => hi (e ▸ hk)
    rw [List.foldl_cons, hf i List.mem_cons_self s rfl, ih hl]
    · have hp : ∀ p, l.foldl (fun p k => H k (localUpdate F H s i).streams[k] p) p = l.foldl (fun p k => H k s.streams[k] p) p := by
        intro p
        refine List.foldl_ext _ _ _ fun p k hk => ?_
        rw [localUpdate_get_ne (hne k hk)]
      rw [hp]
      rfl
    · intro k hk u hu
      exact hf k (List.mem_cons_of_mem i hk) u (hu.trans (localUpdate_get_ne (hne k hk)))

end

/-- Every stream updated, one after the other. -/
theorem foldl_set_all {α : Type} (F : α → α) (v : Vector α 4) : (List.finRange 4).foldl (fun v (i : StreamId) => v.set i (F v[i])) v = v.map F := by
  rw [show List.finRange 4 = [0, 1, 2, 3] from rfl]
  simp only [List.foldl_cons, List.foldl_nil]
  ext1 k hk
  simp only [Vector.getElem_map, Fin.getElem_fin, Vector.getElem_set]
  match k, hk with
  | 0, _ => rfl
  | 1, _ => rfl
  | 2, _ => rfl
  | 3, _ => rfl

/-! ## Lanes that go to OFF -/

/-- The stream whose frame has closed LINK_LOST, bound to a context with capture `m` (R46, R111). -/
def dropBound (x : StreamState) (c : ContextId) : Option Capture → StreamState
  | none => x.unframed false
  | some k => { x.unframed false with
      contexts := x.contexts.set c (some { k with
        phase := .flushing
        causes := { k.causes with linkLost := true }
        flushPending := false
        counters := { k.counters with unpaired := satIncBy k.loneRows k.counters.unpaired } })
      stats := { (x.unframed false).stats with linesUnpaired := satIncBy k.loneRows x.stats.linesUnpaired } }

/-- The stream whose frame in progress has closed LINK_LOST (R46, R51). -/
def dropStream (x : StreamState) : StreamState :=
  match x.frame with
  | none => x
  | some f =>
    match f.bound with
    | none => x.unframed false
    | some c => dropBound x c x.contexts[c]

/-- The held lines left once the frame in progress has closed LINK_LOST (R108). -/
def dropHeld (i : StreamId) (x : StreamState) (p : List HeldLine) : List HeldLine :=
  match x.frame with
  | none => p
  | some f =>
    match f.bound with
    | none => p
    | some c =>
      match x.contexts[c] with
      | none => p
      | some _ => p.filter fun h => !h.ownedBy i c

theorem linkDropped_eq (s : State) (i : StreamId) : s.linkDropped i = localUpdate dropStream dropHeld s i := by
  unfold State.linkDropped localUpdate dropStream dropHeld
  rcases s.streams[i].frame with _ | f
  · exact (congrArg (fun u : State => ({ u with pairing := s.pairing } : State)) (State.withStream_same s i)).symm
  dsimp only
  rcases f.bound with _ | c
  · rfl
  dsimp only
  rcases s.streams[i].contexts[c] with _ | k
  · rfl
  · dsimp only
    unfold State.frameLost State.frameClosed
    dsimp only
    rw [List.map_nil, List.append_nil]
    rfl

theorem dropBound_withLane (x : StreamState) (l : Lane) (c : ContextId) (m : Option Capture) :
    dropBound { x with lane := l } c m = { dropBound x c m with lane := l } := by
  cases m <;> rfl

theorem dropStream_withLane (x : StreamState) (l : Lane) : dropStream { x with lane := l } = { dropStream x with lane := l } := by
  obtain ⟨_, _, _, _, _, _, frame, _, _, _, contexts, _, _, _, _, _⟩ := x
  rcases frame with _ | ⟨_, _, _, bound, _, _, _⟩
  · rfl
  rcases bound with _ | c
  · rfl
  exact dropBound_withLane _ l c contexts[c]

theorem dropStream_lane (x : StreamState) : (dropStream x).lane = x.lane := by
  unfold dropStream dropBound
  repeat' split
  all_goals rfl

/-- The stream whose lane has gone to OFF (R59, R51). -/
def laneGone (x : StreamState) : StreamState := { x with lane := .off, relink := x.relink || decide (x.lane.state = .run) }

/-- A frame in progress is in RUN alone, so a lane that goes to OFF drops the frame there is (R26, R51). -/
theorem laneOff_eq {s : State} {i : StreamId} (h : s.streams[i].frame.isSome = true → s.streams[i].lane.state = .run) :
    s.laneOff i = localUpdate (laneGone ∘ dropStream) dropHeld s i := by
  unfold State.laneOff
  dsimp only
  split
  · next hrun =>
    rw [closeFrame_linkLost, linkDropped_eq, localUpdate_between]
    unfold localUpdate
    have hgone : (laneGone ∘ dropStream) s.streams[i] = { dropStream s.streams[i] with lane := .off, relink := true } := by
      unfold laneGone
      simp only [Function.comp, dropStream_lane, hrun, decide_true, Bool.or_true]
    rw [dropStream_withLane, hgone]
    rfl
  · next hrun =>
    have hnone : s.streams[i].frame = none := by
      rw [← Option.not_isSome_iff_eq_none]
      exact fun hf => hrun (h hf)
    have hd : dropStream s.streams[i] = s.streams[i] := by unfold dropStream; rw [hnone]
    have hp : dropHeld i s.streams[i] s.pairing = s.pairing := by unfold dropHeld; rw [hnone]
    unfold localUpdate laneGone
    rw [Function.comp, hd, hp, decide_eq_false hrun, Bool.or_false]
    rfl

/-- All lanes go to OFF: each frame in progress closes LINK_LOST, and then the lanes are marked (R51, R59). -/
theorem lanesOff_eq {s v : State} (h : ∀ i : StreamId, s.streams[i].frame.isSome = true → s.streams[i].lane.state = .run)
    (hv : v = (List.finRange 4).foldl State.linkDropped s) : s.lanesOff = { v with streams := v.streams.map laneGone } := by
  have hoff : s.lanesOff = _ := foldl_localUpdate (F := laneGone ∘ dropStream) (H := dropHeld) (f := State.laneOff)
    (List.nodup_finRange 4) fun i _ u hu => laneOff_eq (by rw [hu]; exact h i)
  have hdrop : v = _ := hv.trans (foldl_localUpdate (F := dropStream) (H := dropHeld) (f := State.linkDropped)
    (List.nodup_finRange 4) fun i _ u _ => linkDropped_eq u i)
  rw [hoff, hdrop]
  dsimp only
  rw [foldl_set_all, foldl_set_all, Vector.map_map]

/-! ## The aborts of all streams -/

/-- A stream whose captures are aborted (R52, R91). -/
def abortedStream (x : StreamState) : StreamState :=
  { x with
    contexts := x.contexts.map fun k => k.map Capture.abandoned
    frame := x.frame.map fun f => { f with bound := f.bound.filter fun c => x.contexts[c].isNone }
    buffer := x.buffer.filter fun l => x.contexts[l.context].isNone }

/-- The held lines left once the captures of a stream are aborted (R109). -/
def abortedHeld (i : StreamId) (x : StreamState) (p : List HeldLine) : List HeldLine :=
  p.filter fun h => !(h.stream = i && x.contexts[h.context].isSome)

theorem abortCaptures_local (s : State) (i : StreamId) : s.abortCaptures i = localUpdate abortedStream abortedHeld s i :=
  State.abortCaptures_eq s i

section
variable {F : StreamState → StreamState} {H : StreamId → StreamState → List HeldLine → List HeldLine}

theorem record_localUpdate (s : State) (i k : StreamId) (q : Request) (r : Report) :
    (localUpdate F H s i).record k q r = localUpdate F H (s.record k q r) i := by
  have hm : (localUpdate F H s i).memberOf k q = s.memberOf k q := rfl
  unfold State.record
  rw [hm]
  split <;> rfl

theorem foldl_record_localUpdate (i k : StreamId) (r : Request → Report) (l : List Request) (s : State) :
    l.foldl (fun s q => s.record k q (r q)) (localUpdate F H s i)
      = localUpdate F H (l.foldl (fun s q => s.record k q (r q)) s) i := by
  induction l generalizing s with
  | nil => rfl
  | cons q l ih => rw [List.foldl_cons, record_localUpdate, ih]; rfl

theorem localUpdate_onStream (s : State) {i k : StreamId} (h : k ≠ i) (f : StreamState → StreamState) :
    (localUpdate F H s i).onStream k f = localUpdate F H (s.onStream k f) i := by
  have hne : i.val ≠ k.val := fun e => h (Fin.ext e.symm)
  unfold State.onStream
  rw [localUpdate_get_ne h]
  unfold localUpdate State.withStream
  dsimp only
  rw [get_set, if_neg h.symm, Vector.set_comm _ _ hne]

/-- The list of another stream is emptied alike before and after an update of one stream. -/
theorem abortList_localUpdate (s : State) {i k : StreamId} (h : k ≠ i) :
    (localUpdate F H s i).abortList k = localUpdate F H (s.abortList k) i := by
  unfold State.abortList
  rw [localUpdate_get_ne h, foldl_record_localUpdate, localUpdate_onStream _ h]

end

/-- Two folds over the same streams are one, where the second one's updates pass the first one's of the streams behind. -/
theorem foldl_fuse {f g : State → StreamId → State} (h : ∀ (s : State) (i k : StreamId), k ≠ i → f (g s i) k = g (f s k) i)
    {l : List StreamId} (hl : l.Nodup) (s : State) : l.foldl g (l.foldl f s) = l.foldl (fun s i => g (f s i) i) s := by
  induction l generalizing s with
  | nil => rfl
  | cons i l ih =>
    obtain ⟨hi, hl⟩ := List.nodup_cons.mp hl
    have pass : ∀ (l : List StreamId) (s : State), i ∉ l → g (l.foldl f s) i = l.foldl f (g s i) := by
      intro l
      induction l with
      | nil => exact fun _ _ => rfl
      | cons k l ih =>
        intro s hk
        rw [List.mem_cons, not_or] at hk
        rw [List.foldl_cons, ih _ hk.2, List.foldl_cons, h s i k (fun e => hk.1 e.symm)]
    rw [List.foldl_cons, List.foldl_cons, List.foldl_cons, pass l _ hi, ih hl]

/-- Every stream is aborted as `State.streamAborted` has it, and then every group breaks (R52, R124). -/
theorem abortEverything_eq (s : State) : s.abortEverything
    = (List.finRange 8).foldl State.breakGroup ((List.finRange 4).foldl State.streamAborted s) := by
  unfold State.abortEverything
  dsimp only
  rw [foldl_fuse (f := State.abortList) (g := State.abortCaptures) (fun s i k hk => by
    rw [abortCaptures_local, abortCaptures_local, abortList_localUpdate s hk]) (List.nodup_finRange 4)]
  simp only [State.abortStream_eq]

end Sys2Proof.Proofs
end

section
/-! O6, the statement: what the entry to STOPPING leaves. -/
namespace Sys2Proof.Proofs
open Sys2Proof.Machine

/-- Whether a context of a stream is held. -/
def heldAt (i : StreamId) (c : ContextId) (s : State) : Bool := (s.streams[i].contexts[c]).isSome

theorem heldAt_of_view {s t : State} (h : captureView t = captureView s) (i : StreamId) (c : ContextId) :
    heldAt i c t = heldAt i c s := by
  unfold heldAt
  rw [(captureView_get h i).1]

theorem heldAt_localUpdate {F : StreamState → StreamState} {H : StreamId → StreamState → List HeldLine → List HeldLine}
    (hF : ∀ (x : StreamState) (c : ContextId), ((F x).contexts[c]).isSome = (x.contexts[c]).isSome) (s : State) (k i : StreamId)
    (c : ContextId) : heldAt i c (localUpdate F H s k) = heldAt i c s := by
  unfold heldAt
  by_cases hk : i = k
  · subst hk
    unfold localUpdate
    rw [show ∀ (x : StreamState) (p : List HeldLine), ({ s.withStream i x with pairing := p } : State).streams[i] = x from
      fun x p => State.withStream_get s i x, hF]
  · rw [localUpdate_get_ne hk]

theorem held_dropStream (x : StreamState) (c : ContextId) :
    (((laneGone ∘ dropStream) x).contexts[c]).isSome = (x.contexts[c]).isSome := by
  have hb : ∀ (d : ContextId) (m : Option Capture), x.contexts[d] = m → ((dropBound x d m).contexts[c]).isSome = (x.contexts[c]).isSome := by
    intro d m hm
    cases m with
    | none => rfl
    | some k =>
      unfold dropBound
      dsimp only
      rw [get_set]
      split
      · next e => rw [e, hm]; rfl
      · rfl
  change ((dropStream x).contexts[c]).isSome = _
  unfold dropStream
  repeat' split
  · rfl
  · rfl
  · exact hb _ _ rfl

theorem held_abortedStream (x : StreamState) (c : ContextId) : ((abortedStream x).contexts[c]).isSome = (x.contexts[c]).isSome := by
  unfold abortedStream
  dsimp only
  rw [Fin.getElem_fin, Vector.getElem_map, Option.isSome_map]
  rfl

theorem heldAt_lanesOff {s : State} (h : ∀ i : StreamId, s.streams[i].frame.isSome = true → s.streams[i].lane.state = .run)
    (i : StreamId) (c : ContextId) : heldAt i c s.lanesOff = heldAt i c s := by
  have e : s.lanesOff = (List.finRange 4).foldl (localUpdate (laneGone ∘ dropStream) dropHeld) s :=
    (foldl_localUpdate (F := laneGone ∘ dropStream) (H := dropHeld) (f := State.laneOff) (List.nodup_finRange 4)
      fun i _ u hu => laneOff_eq (by rw [hu]; exact h i)).trans
    (foldl_localUpdate (F := laneGone ∘ dropStream) (H := dropHeld) (f := localUpdate (laneGone ∘ dropStream) dropHeld)
      (List.nodup_finRange 4) fun _ _ _ _ => rfl).symm
  rw [e]
  exact foldl_keeps (heldAt i c) _ (fun s k => heldAt_localUpdate held_dropStream s k i c) _ _

theorem heldAt_streamAborted (s : State) (k i : StreamId) (c : ContextId) : heldAt i c (s.streamAborted k) = heldAt i c s := by
  rw [← State.abortStream_eq, abortCaptures_local, heldAt_localUpdate held_abortedStream,
    heldAt_of_view (captureView_heads.abortList s k)]

/-- A stream that its abort has emptied, but for the contexts that are free. -/
abbrev SelfCleared (i : StreamId) (s : State) : Prop := Cleared (fun c => heldAt i c s = false) i s

theorem selfCleared_streamAborted (s : State) (i : StreamId) : SelfCleared i (s.streamAborted i) := by
  have hheld := heldAt_streamAborted s i i
  have hlist : (s.abortList i).streams[i] = { s.streams[i] with prefetch := [], deadline := none } := by
    unfold State.abortList
    rw [State.onStream_get]
    have hu : (s.streams[i].prefetch.foldl (fun s q => s.record i q (q.unboundReport .aborted)) s).streams = s.streams :=
      foldl_keeps State.streams _ (fun s q => streams_record s i q _) _ _
    rw [hu]
  have hget : (s.streamAborted i).streams[i] = abortedStream { s.streams[i] with prefetch := [], deadline := none } := by
    rw [← State.abortStream_eq, abortCaptures_local]
    unfold localUpdate
    rw [show ∀ (x : StreamState) (p : List HeldLine), ({ (s.abortList i).withStream i x with pairing := p } : State).streams[i] = x
      from fun x p => State.withStream_get _ i x, hlist]
  have hpairing : (s.streamAborted i).pairing = abortedHeld i { s.streams[i] with prefetch := [], deadline := none } (s.abortList i).pairing := by
    rw [← State.abortStream_eq, abortCaptures_local]
    unfold localUpdate
    rw [hlist]
  refine ⟨by rw [hget]; exact ⟨rfl, rfl⟩, fun c k hk => ?_, fun l hl => ?_, fun h hh hi => ?_⟩
  · rw [hget] at hk
    unfold abortedStream at hk
    dsimp only at hk
    rw [Fin.getElem_fin, Vector.getElem_map] at hk
    obtain ⟨m, -, rfl⟩ := Option.map_eq_some_iff.mp hk
    exact ⟨rfl, rfl⟩
  · rw [hget] at hl
    have := (List.mem_filter.mp hl).2
    rw [hheld]
    unfold heldAt
    rwa [Option.isSome_eq_false_iff]
  · rw [hpairing] at hh
    have := (List.mem_filter.mp hh).2
    simp only [hi, decide_true, Bool.true_and, Bool.not_eq_true'] at this
    rw [hheld]
    exact this

theorem selfCleared_keep {s : State} {i k : StreamId} (h : SelfCleared i s) : SelfCleared i (s.streamAborted k) := by
  by_cases hk : i = k
  · subst hk; exact selfCleared_streamAborted s i
  · have hheld := heldAt_streamAborted s k i
    have hstream : (s.streamAborted k).streams[i] = s.streams[i] := by
      rw [← State.abortStream_eq, abortCaptures_local, localUpdate_get_ne hk]
      unfold State.abortList
      rw [State.onStream_get_ne _ hk]
      have hu : (s.streams[k].prefetch.foldl (fun s q => s.record k q (q.unboundReport .aborted)) s).streams = s.streams :=
        foldl_keeps State.streams _ (fun s q => streams_record s k q _) _ _
      rw [hu]
    have hsub : ∀ x ∈ (s.streamAborted k).pairing, x ∈ s.pairing := by
      intro x hx
      rw [← State.abortStream_eq, abortCaptures_local] at hx
      have hview : (s.abortList k).pairing = s.pairing := congrArg Prod.fst (captureView_heads.abortList s k)
      exact hview ▸ (List.mem_filter.mp hx).1
    refine ⟨by rw [hstream]; exact h.list, by rw [hstream]; exact h.contexts, fun l hl => ?_, fun x hx hi => ?_⟩
    · rw [hheld]; rw [hstream] at hl; exact h.buffer l hl
    · rw [hheld]; exact h.pairing x (hsub x hx) hi

theorem cleared_streamsAborted (s : State) (i : StreamId) :
    Cleared (fun c => heldAt i c s = false) i ((List.finRange 4).foldl State.streamAborted s) := by
  have k : SelfCleared i ((List.finRange 4).foldl State.streamAborted s) :=
    foldl_done (idle := SelfCleared) (fun s i => selfCleared_streamAborted s i) (fun s a b hb => selfCleared_keep hb) (List.finRange 4)
      s i (List.mem_finRange i)
  have e : ∀ c, heldAt i c ((List.finRange 4).foldl State.streamAborted s) = heldAt i c s :=
    fun c => foldl_keeps (heldAt i c) State.streamAborted (fun s k => heldAt_streamAborted s k i c) _ _
  exact ⟨k.list, k.contexts, fun l hl => e l.context ▸ k.buffer l hl, fun h hh hi => e h.context ▸ k.pairing h hh hi⟩

theorem cleared_abortEverything (s : State) (i : StreamId) : Cleared (fun c => heldAt i c s = false) i s.abortEverything := by
  rw [abortEverything_eq]
  exact cleared_foldl (fun s g hs => hs.breakGroup g) (List.finRange 8) (cleared_streamsAborted s i)

theorem atRest_abortEverything (s : State) : AtRest (fun _ => True) s.abortEverything := by
  rw [abortEverything_eq]
  exact atRest_of_breaks (fun s g => .inl rfl) _

theorem lanesOff_admin (s : State) : s.lanesOff.admin = s.admin := foldl_keeps State.admin _ laneOff_admin _ _

theorem streamAborted_admin (s : State) (i : StreamId) : (s.streamAborted i).admin = s.admin := by
  rw [← State.abortStream_eq, abortCaptures_admin, admin_heads.abortList]

theorem abortEverything_admin (s : State) : s.abortEverything.admin = s.admin := by
  rw [abortEverything_eq, foldl_keeps State.admin State.breakGroup fun s g => admin_heads.breakGroup s g,
    foldl_keeps State.admin State.streamAborted streamAborted_admin]

theorem abortWaiting_none {s : State} (h : s.admin.waiting = none) : s.abortWaiting = s := by
  unfold State.abortWaiting
  rw [h]

theorem abortWaiting_some {s : State} {cmd : AdminCommand} (h : s.admin.waiting = some cmd) : s.abortWaiting
    = { s.withReady cmd.entry (.unbound .aborted cmd.tag 0) true with admin := { s.admin with waiting := none } } := by
  unfold State.abortWaiting
  rw [h]
  rfl

theorem abortWaiting_waiting (s : State) : s.abortWaiting.admin.waiting = none := by
  unfold State.abortWaiting
  split
  · rfl
  · next h => exact h

theorem captureView_abortWaiting (s : State) : captureView s.abortWaiting = captureView s := by
  unfold State.abortWaiting
  split <;> rfl

theorem enterStopping_outside (s : State) : s.enterStopping.outside = { s with device := .stopping }.outside := by
  unfold State.enterStopping
  rw [State.outside_quiet.quiet.abortEverything, State.outside_quiet.quiet.abortWaiting, State.outside_quiet.lanesOff]

theorem enterStopping_lanes (s : State) : s.enterStopping.allLanesOff := by
  intro i
  unfold State.enterStopping
  have q := State.lane_quiet i
  exact (q.abortEverything _).trans ((q.abortWaiting _).trans (State.lanesOff_all _ i))

theorem enterStopping_waiting (s : State) : s.enterStopping.admin.waiting = none := by
  unfold State.enterStopping
  rw [abortEverything_admin]
  exact abortWaiting_waiting _

theorem enterStopping_cleared {s : State} (h : ∀ i : StreamId, s.streams[i].frame.isSome = true → s.streams[i].lane.state = .run)
    (i : StreamId) : Cleared (fun c => heldAt i c s = false) i s.enterStopping := by
  have k := cleared_abortEverything ({ s with device := .stopping }.lanesOff.abortWaiting) i
  have e : ∀ c, heldAt i c ({ s with device := .stopping }.lanesOff.abortWaiting) = heldAt i c s := fun c =>
    (heldAt_of_view (captureView_abortWaiting _) i c).trans (heldAt_lanesOff (s := { s with device := .stopping }) h i c)
  exact ⟨k.list, k.contexts, fun l hl => e l.context ▸ k.buffer l hl, fun x hx hi => e x.context ▸ k.pairing x hx hi⟩

/-- In a device that is neither in RUNNING nor able to end, `conclude` drains and queues. -/
theorem conclude_of_stopping {s : State} (hd : s.device = .stopping) (hp : ¬s.allFree) : s.conclude = s.drain.drain.enqueue := by
  have hdev : s.drain.device = .stopping := by
    have k := State.outside_quiet.quiet.drain s
    generalize s.drain = m at k ⊢
    exact (congrArg State.device k :).trans hd
  have hout := outside_drained s
  generalize hm : s.drain.drain.enqueue = m at hout
  have hmdev : m.device = .stopping := (congrArg State.device hout :).trans hd
  have hreads : m.reads = s.reads := (congrArg State.reads hout :)
  have hwrites : m.writes = s.writes := (congrArg State.writes hout :)
  rw [← hm]
  refine conclude_of_quiet ?_ ?_ ?_
  · simp [State.canStart, hdev]
  · rw [hm, ← Bool.not_eq_true, stopEnds_iff, State.allFree, hreads, hwrites]
    exact fun h => hp h.2.2
  · rw [hm, ← Bool.not_eq_true, resetEnds_iff, hmdev]
    exact fun h => by cases h.1

theorem admin_enqueue (s : State) : s.enqueue.admin = s.admin := rfl
theorem coreOf_enqueue (i : StreamId) (s : State) : coreOf i s.enqueue = coreOf i s := rfl
theorem calmer_enqueue (s : State) : Calmer s s.enqueue := .of_eq fun _ => rfl

theorem Cleared.enqueue {free : ContextId → Prop} {i : StreamId} {s : State} (h : Cleared free i s) : Cleared free i s.enqueue :=
  h.of_view rfl h.list

theorem frame_of_core {x y : StreamState} (h : y.core = x.core) (hx : x.frame = none) : y.frame = none := by
  have e : y.frame.map (fun f => { f with bound := none }) = x.frame.map fun f => { f with bound := none } := congrArg StreamState.frame h
  rw [hx] at e
  exact Option.map_eq_none_iff.mp e

/-- With every lane in OFF no frame is in progress (R26). -/
theorem lanesOff_frame {s : State} (h : ∀ k : StreamId, ∃ run, StreamFit run s.streams[k]) (i : StreamId) :
    s.lanesOff.streams[i].frame = none := by
  have hfit := lanesOff_fit h i
  have hoff := State.lanesOff_all s i
  generalize s.lanesOff.streams[i] = x at hfit hoff
  rw [← Option.not_isSome_iff_eq_none]
  intro hf
  have hrun := hfit.framing hf
  rw [hoff] at hrun
  cases hrun

/-- Settles O6: the lanes, the waiting command, the streams and the groups, each by the equation of its own block. -/
theorem enableStops : Obligations.EnableStops := by
  unfold Obligations.EnableStops
  intro s hd he hfits
  have hexec : exec (.enable allStrobes false) s = .next { s with enable := false }.enterStopping.conclude := by
    rw [exec_enable]
    unfold State.writeEnable
    rw [if_neg (by simp [hd, he])]
    simp only [hd]
  have hframing : ∀ i : StreamId, s.streams[i].frame.isSome = true → s.streams[i].lane.state = .run := fun i => (hfits i).framing
  refine ⟨fun hbusy => ?emptied, fun v u hv hu => ?written⟩
  case emptied =>
    have hout := enterStopping_outside { s with enable := false }
    have hlanes := enterStopping_lanes { s with enable := false }
    have hwait := enterStopping_waiting { s with enable := false }
    have hclear := enterStopping_cleared (s := { s with enable := false }) hframing
    have hrest : AtRest (fun _ => True) { s with enable := false }.enterStopping := by
      unfold State.enterStopping
      exact atRest_abortEverything _
    have hframe : ∀ i : StreamId, { s with enable := false }.enterStopping.streams[i].frame = none := by
      intro i
      have hcore : coreOf i { s with enable := false }.enterStopping = coreOf i ({ s with enable := false, device := .stopping } : State).lanesOff := by
        unfold State.enterStopping
        exact ((coreOf_quiet i).abortEverything _).trans ((coreOf_quiet i).abortWaiting _)
      exact frame_of_core hcore (lanesOff_frame (s := ({ s with enable := false, device := .stopping } : State))
        (fun k => ⟨_, (streamFits_iff s k).mp (hfits k)⟩) i)
    rw [hexec]
    generalize ({ s with enable := false } : State).enterStopping = x at hout hlanes hwait hclear hrest hframe ⊢
    have hxd : x.device = .stopping := (congrArg State.device hout :)
    have hxfree : ¬x.allFree := by
      have hreads : x.reads = s.reads := (congrArg State.reads hout :)
      have hwrites : x.writes = s.writes := (congrArg State.writes hout :)
      rw [State.allFree, hreads, hwrites]
      exact hbusy
    refine ⟨_, rfl, (conclude_of_busy hxfree).1.trans hout, State.conclude_lanes (by rw [hxd]; decide) hlanes, ?_⟩
    rw [conclude_of_stopping hxd hxfree]
    refine ⟨?_, fun i => ⟨?_, ?_⟩, fun h hh => ?_, fun g => ?_⟩
    · rw [admin_enqueue, drain_waiting, drain_waiting, hwait]
    · have hc : coreOf i x.drain.drain.enqueue = coreOf i x := by
        rw [coreOf_enqueue, (coreOf_quiet i).drain, (coreOf_quiet i).drain]
      exact frame_of_core hc (hframe i)
    · have k := (hclear i).drain.drain.enqueue
      refine ⟨k.list.1, k.list.2, k.contexts, fun l hl => ?_⟩
      have := k.buffer l hl
      rwa [heldAt, Option.isSome_eq_false_iff, Option.isNone_iff_eq_none] at this
    · have := (hclear h.stream).drain.drain.enqueue.pairing h hh rfl
      rwa [heldAt, Option.isSome_eq_false_iff, Option.isNone_iff_eq_none] at this
    · exact ((hrest.calmer (calmer_drain x)).calmer (calmer_drain x.drain)).calmer (calmer_enqueue _) g trivial
  case written =>
    have hlanes : ({ s with enable := false, device := .stopping } : State).lanesOff = u := by
      rw [hu]
      exact lanesOff_eq hframing hv
    have hadmin : u.admin = s.admin := by rw [← hlanes, lanesOff_admin]
    have henter : ({ s with enable := false } : State).enterStopping = u.abortWaiting.abortEverything := by
      rw [← hlanes]
      rfl
    rw [hexec, henter, abortEverything_eq]
    refine ⟨fun hw => ?_, fun cmd hw => ?_⟩
    · rw [abortWaiting_none (by rw [hadmin]; exact hw)]
    · rw [abortWaiting_some (by rw [hadmin]; exact hw), hadmin]

end Sys2Proof.Proofs
end

section
/-! O12: the setup read completes (R132, R195, R197, R212). -/
namespace Sys2Proof.Proofs
open Sys2Proof.Machine

/-! ## The setup record -/

theorem zeroAt_iff (r : List Byte) (a b : Nat) : zeroAt r (span a b) = true ↔ ∀ k, a ≤ k → k < b → byteAt r k = 0 := by
  unfold zeroAt span
  rw [List.all_eq_true]
  simp only [List.mem_map, List.mem_range, beq_iff_eq, forall_exists_index, and_imp, forall_apply_eq_imp_iff₂]
  constructor
  · intro h k ha hb
    have := h (k - a) (by omega)
    rwa [Nat.add_sub_cancel' ha] at this
  · exact fun h k hk => h (a + k) (by omega) (by omega)

/-- A record is valid just when its fields lie in their ranges (R132, R212). -/
theorem readSetup_eq_some (r : List Byte) (v : Setup) : readSetup r = some v ↔
    v = ⟨BitVec.ofNat 64 (leField r 0 8), 2 ^ byteAt r 8, BitVec.ofNat 64 (leField r 16 8), 2 ^ byteAt r 9, byteAt r 10,
      leField r 12 2, byteAt r 11⟩
    ∧ leField r 0 8 % 64 = 0 ∧ 2 ≤ byteAt r 8 ∧ byteAt r 8 ≤ 8 ∧ 2 ≤ byteAt r 9 ∧ byteAt r 9 ≤ 12
    ∧ 1 ≤ byteAt r 10 ∧ byteAt r 10 ≤ 64 ∧ 1 ≤ byteAt r 11 ∧ leField r 12 2 ≤ 1023 ∧ leField r 16 8 % 64 = 0
    ∧ leField r 0 8 + 64 * 2 ^ byteAt r 8 ≤ 2 ^ 64 ∧ leField r 16 8 + 32 * 2 ^ byteAt r 9 ≤ 2 ^ 64
    ∧ byteAt r 14 = 0 ∧ byteAt r 15 = 0 ∧ ∀ k, 24 ≤ k → k < 64 → byteAt r k = 0 := by
  have hpair : (∀ k, 14 ≤ k → k < 16 → byteAt r k = 0) ↔ byteAt r 14 = 0 ∧ byteAt r 15 = 0 := by
    refine ⟨fun h => ⟨h 14 (by decide) (by decide), h 15 (by decide) (by decide)⟩, fun h k ha hb => ?_⟩
    obtain rfl | rfl : k = 14 ∨ k = 15 := by omega
    · exact h.1
    · exact h.2
  unfold readSetup
  dsimp only
  rw [Option.ite_none_right_eq_some]
  simp only [Bool.and_eq_true, decide_eq_true_eq, beq_iff_eq, zeroAt_iff, hpair, Option.some.injEq]
  constructor
  · rintro ⟨⟨⟨⟨⟨⟨⟨⟨⟨⟨⟨⟨⟨⟨ha, h8⟩, h8'⟩, hc⟩, h9⟩, h9'⟩, h10⟩, h10'⟩, htime⟩, h11⟩, hae⟩, hce⟩, hz⟩, hz'⟩, rfl⟩
    exact ⟨rfl, ha, h8, h8', h9, h9', h10, h10', h11, htime, hc, hae, hce, hz.1, hz.2, hz'⟩
  · rintro ⟨rfl, ha, h8, h8', h9, h9', h10, h10', h11, htime, hc, hae, hce, hz, hz', hz''⟩
    exact ⟨⟨⟨⟨⟨⟨⟨⟨⟨⟨⟨⟨⟨⟨ha, h8⟩, h8'⟩, hc⟩, h9⟩, h9'⟩, h10⟩, h10'⟩, htime⟩, h11⟩, hae⟩, hce⟩, hz, hz'⟩, hz''⟩, rfl⟩

/-! ## The device starts -/

/-- With every lane disabled no lane leaves OFF (R59). -/
theorem lanesOn_disabled {s : State} (h : ∀ i : StreamId, s.streams[i].laneEnable = false) : s.lanesOn = s := by
  unfold State.lanesOn
  generalize List.finRange 4 = l
  induction l with
  | nil => rfl
  | cons i l ih =>
    have e : s.laneOn i = s := by
      unfold State.laneOn
      rw [if_neg (by rw [h i]; simp)]
    rw [List.foldl_cons, e, ih]

theorem foldl_fixed {α : Type} {f : State → α → State} {s : State} (h : ∀ a, f s a = s) (l : List α) : l.foldl f s = s := by
  induction l with
  | nil => rfl
  | cons a l ih => rw [List.foldl_cons, h, ih]

/-- An entry to STOPPING that finds nothing to abort. -/
theorem enterStopping_idle {s : State} (hs : ∀ i : StreamId, s.streams[i] = .reset) (ha : s.admin = .idle)
    (hg : ∀ g : GroupId, s.groups[g] = .free) : s.enterStopping = { s with device := .stopping } := by
  have hlanes : ({ s with device := .stopping } : State).lanesOff = { s with device := .stopping } :=
    State.lanesOff_same fun i => congrArg StreamState.lane (hs i)
  have hwait : ({ s with device := .stopping } : State).abortWaiting = { s with device := .stopping } :=
    abortWaiting_none (congrArg AdminUnit.waiting ha)
  have hstream : ∀ i, ({ s with device := .stopping } : State).streamAborted i = { s with device := .stopping } := by
    intro i
    have hlist : ({ s with device := .stopping } : State).abortList i = { s with device := .stopping } := by
      unfold State.abortList
      rw [show ({ s with device := .stopping } : State).streams[i].prefetch = [] from congrArg StreamState.prefetch (hs i)]
      refine State.onStream_same (s := { s with device := .stopping }) ?_
      dsimp only
      rw [hs i]
      rfl
    have hfree : ∀ c : ContextId, ({ s with device := .stopping } : State).streams[i].contexts[c] = none := by
      intro c
      dsimp only
      rw [hs i]
      simp [StreamState.reset]
    rw [← State.abortStream_eq, hlist, State.abortCaptures, State.abortCapture_none (hfree 0), State.abortCapture_none (hfree 1)]
  unfold State.enterStopping
  rw [hlanes, hwait, abortEverything_eq, foldl_fixed hstream]
  refine foldl_fixed (fun g => breakGroup_same (.inl ?_)) _
  exact congrArg Machine.Group.state (hg g)

/-- A stop that finds nothing left ends in the event (R197). -/
theorem conclude_of_stopped {s : State} (hd : s.device = .stopping) (hs : ∀ i : StreamId, s.streams[i] = .reset)
    (ha : s.admin = .idle) (hg : ∀ g : GroupId, s.groups[g] = .free) (he : ∀ e : EntryId, s.holding[e] = .free) (hp : s.allFree) :
    s.conclude = s.toStopped := by
  have hdrained : Drained s := by
    refine ⟨fun i c => ?_, fun g => by rw [hg]; rfl, by rw [State.abortCanEnd, ha]; rfl⟩
    unfold State.drained State.capture?
    rw [hs]
    simp [StreamState.reset]
  have hstart : s.canStart = false := by simp [State.canStart, hd]
  have hstop : s.enqueue.stopEnds = true := (stopEnds_iff s).mpr ⟨hd, fun e => by rw [he]; rfl, hp⟩
  rw [conclude_of_drained hdrained hstart, State.endings, if_pos hstop]
  rfl

/-! ## Answers to an owner -/

section
variable {s : State} {o : Owner}

/-- The owner of an ISSUED write takes the answer, with the entry FREE (R184). -/
theorem respond_write_some {j : Fin Config.writeEntries} (hfor : s.writingFor j o) (hd : s.device ≠ .resetting)
    {f : Transaction → State → Option State} {u : State} (hf : ∀ t, t.owner = some o → f t (s.writeFreed j) = some u) :
    s.respond .write j f = u.conclude := by
  obtain ⟨t, -, ho, hresp⟩ := State.respond_write hfor hd
  rw [hresp, hf t ho]

section
variable {j : Fin Config.readEntries} {b : Beat} {f : Transaction → ReadAnswer → State → Option State} {u : State}

/-- A read that lands is answered with its data (R183). -/
theorem takeBeat_lands (hfor : s.readingFor j o) (hd : s.device ≠ .resetting) {r : List Byte} (hr : s.landsWith j b r)
    (hf : ∀ t, t.owner = some o → f t (.data r) (s.readFreed j) = some u) : s.takeBeat j b f = u.conclude := by
  obtain ⟨t, ht, ho, hresp⟩ := State.respond_read hfor hd
  rw [State.takeBeat_last hr.1, hresp, State.landsWith_answer hr ht, hf t ho]

/-- A read that fails is answered with an error (R183). -/
theorem takeBeat_fails (hfor : s.readingFor j o) (hd : s.device ≠ .resetting) (hb : s.failsWith j b)
    (hf : ∀ t, t.owner = some o → f t .error (s.readFreed j) = some u) : s.takeBeat j b f = u.conclude := by
  obtain ⟨t, ht, ho, hresp⟩ := State.respond_read hfor hd
  rw [State.takeBeat_last hb.1, hresp, State.failsWith_answer hb ht, hf t ho]

end
end

/-- The answer of the setup read (R132, R183). -/
theorem exec_setupRead {s : State} {j : Fin Config.readEntries} {b : Beat} (hfor : s.readingFor j .deviceStart)
    (hd : s.device ≠ .resetting) :
    (∀ r, s.landsWith j b r → exec (.setupReadResponse j b) s = .next ((s.readFreed j).judgeSetup r).conclude)
    ∧ (s.failsWith j b → exec (.setupReadResponse j b) s = .next ((s.readFreed j).enterFaulted .setupRead).conclude) := by
  exact ⟨fun r hr => congrArg Host.Outcome.next (takeBeat_lands hfor hd hr fun t ho => by rw [ho]),
    fun hf => congrArg Host.Outcome.next (takeBeat_fails hfor hd hf fun t ho => by rw [ho])⟩

/-- A device that has started with ENABLE written 0 meanwhile, and with nothing to abort, passes to OFF (R195, R197). -/
theorem honourEnable_stops {s : State} (he : s.enable = false ∨ s.enableDropped = true) (hs : ∀ i : StreamId, s.streams[i] = .reset)
    (ha : s.admin = .idle) (hg : ∀ g : GroupId, s.groups[g] = .free) (hh : ∀ e : EntryId, s.holding[e] = .free) (hp : s.allFree) :
    s.honourEnable.conclude = s.toStopped := by
  have hoff : ¬(s.enable && !s.enableDropped) = true := by
    rcases he with h | h <;> simp [h]
  rw [State.honourEnable, if_neg hoff, enterStopping_idle hs ha hg]
  exact (conclude_of_stopped (s := { s with device := .stopping }) rfl hs ha hg hh hp :)

/-- Settles O12: the record is judged, and what becomes of the device follows from it and from ENABLE. -/
theorem setupReadCompletes : Obligations.SetupReadCompletes := by
  unfold Obligations.SetupReadCompletes
  refine ⟨fun s j b hfor hd => ?_, readSetup_eq_some⟩
  have hnr : s.device ≠ .resetting := by rw [hd]; decide
  obtain ⟨hlands, hfails⟩ := exec_setupRead (b := b) hfor hnr
  refine ⟨fun r v hr hv hdis => ?valid, fun hlanes => ⟨fun r hr hv => ?invalid, fun hf => ?fails⟩⟩
  case valid =>
    have hstart : (s.readFreed j).startRunning v = { s.readFreed j with
        device := .running, setup := some v
        rings := s.rings.set 0 ⟨.active, v.adminBase, v.adminSlots, 0, 0, false⟩
        completion := ⟨true, v.completionBase, v.completionSlots, 0, 0, true⟩
        coalescingCount := 0, coalescingTimer := none } := by
      unfold State.startRunning
      exact lanesOn_disabled hdis
    have hjudge : (s.readFreed j).judgeSetup r = ((s.readFreed j).startRunning v).honourEnable := by
      unfold State.judgeSetup
      rw [hv]
    refine ⟨fun he hdrop => ?_, fun hoff hfree hholding hadmin hstreams hgroups => ?_⟩
    · rw [hlands r hr, hjudge, hstart]
      unfold State.honourEnable
      rw [if_pos (by simp [State.readFreed, he, hdrop])]
    · rw [hlands r hr, hjudge]
      generalize (s.readFreed j).startRunning v = x at hstart
      subst hstart
      refine congrArg Host.Outcome.next ((honourEnable_stops ?_ ?_ ?_ ?_ ?_ ?_).trans (toStopped_eq _))
      · exact hoff
      · exact hstreams
      · exact hadmin
      · exact hgroups
      · exact hholding
      · exact hfree
  case invalid =>
    have hjudge : (s.readFreed j).judgeSetup r = (s.readFreed j).enterFaulted .setupInvalid := by
      unfold State.judgeSetup
      rw [hv]
    rw [hlands r hr, hjudge, State.enterFaulted_eq (s := s.readFreed j) hlanes _ (by simp [State.readFreed, hd])]
  case fails => rw [hfails hf, State.enterFaulted_eq (s := s.readFreed j) hlanes _ (by simp [State.readFreed, hd])]

end Sys2Proof.Proofs
end

section
/-! The head of a prefetch list: registration, what becoming head does, and how a head finishes (R15, R16, R116, R117): O42. -/
namespace Sys2Proof.Proofs
open Sys2Proof.Machine

/-! ## Registration -/

section
variable {s : State} {i : StreamId} {q : Request}

theorem register_ungrouped (h : q.group = none) : s.register i q = (s, true) := by
  unfold State.register
  rw [h]

section
variable {g : GroupId} {e : Group} (hg : q.group = some g) (he : s.groups[g] = e)
include hg he

/-- A group that is FREE, does not name the stream or has its slot taken refuses a request (R117). -/
theorem register_invalid (h : e.state = .free ∨ e.mask[i] = false ∨ e.slots[i].progress ≠ .empty) :
    s.register i q = (s.entryReady q.entry (q.unboundReport .invalid) q.notify, false) := by
  subst he
  unfold State.register
  rw [hg]
  exact if_pos (by simpa [or_assoc] using h)

section
variable (hm : e.mask[i] = true) (hp : e.slots[i].progress = .empty)
include hm hp

/-- A BROKEN group finishes a request as it registers (R117). -/
theorem register_broken (h : e.state = .broken) : s.register i q =
    ((s.entryParked q.entry (q.unboundReport .groupBroken)).onGroup g (·.setSlot i (.done q .groupBroken)), false) := by
  subst he
  unfold State.register
  rw [hg]
  refine (if_neg ?_).trans (if_pos h)
  rw [h, hm, hp]
  decide

/-- An OPEN or FIXED group registers a request (R116). -/
theorem register_registers (h : e.state = .opened ∨ e.state = .fixed) :
    s.register i q = (s.onGroup g (·.setSlot i ⟨.registered, some q, none⟩), true) := by
  subst he
  unfold State.register
  rw [hg]
  refine (if_neg ?_).trans (if_neg ?_)
  · rw [hm, hp]
    rcases h with h | h <;> rw [h] <;> decide
  · rcases h with h | h <;> rw [h] <;> decide

end
end
end

/-- How a request registers: it stays unchanged, or one of the three answers of its group (R116, R117). -/
theorem register_cases (s : State) (i : StreamId) (q : Request) :
    (q.group = none) ∨ ∃ g, q.group = some g ∧
      ((s.groups[g].state = .free ∨ s.groups[g].mask[i] = false ∨ s.groups[g].slots[i].progress ≠ .empty)
      ∨ (s.groups[g].mask[i] = true ∧ s.groups[g].slots[i].progress = .empty
        ∧ (s.groups[g].state = .broken ∨ s.groups[g].state = .opened ∨ s.groups[g].state = .fixed))) := by
  cases hg : q.group with
  | none => exact .inl rfl
  | some g =>
    refine .inr ⟨g, rfl, ?_⟩
    by_cases hm : s.groups[g].mask[i] = true
    · by_cases hp : s.groups[g].slots[i].progress = .empty
      · cases hs : s.groups[g].state with
        | free => exact .inl (.inl rfl)
        | opened => exact .inr ⟨hm, hp, .inr (.inl rfl)⟩
        | fixed => exact .inr ⟨hm, hp, .inr (.inr rfl)⟩
        | broken => exact .inr ⟨hm, hp, .inl rfl⟩
      · exact .inl (.inr (.inr hp))
    · exact .inl (.inr (.inl (Bool.not_eq_true _ ▸ hm)))

/-- A registration does not look at the streams. -/
theorem register_withStream (s : State) (i k : StreamId) (q : Request) (x : StreamState) :
    (s.withStream k x).register i q = ((s.register i q).1.withStream k x, (s.register i q).2) := by
  rcases register_cases s i q with hg | ⟨g, hg, h | ⟨hm, hp, h | h⟩⟩
  · rw [register_ungrouped hg, register_ungrouped hg]
  · rw [register_invalid hg rfl h, register_invalid (s := s.withStream k x) hg rfl h]
    rfl
  · rw [register_broken hg rfl hm hp h, register_broken (s := s.withStream k x) hg rfl hm hp h]
    rfl
  · rw [register_registers hg rfl hm hp h, register_registers (s := s.withStream k x) hg rfl hm hp h]
    rfl

theorem streams_register (s : State) (i : StreamId) (q : Request) : (s.register i q).1.streams = s.streams := by
  rcases register_cases s i q with hg | ⟨g, hg, h | ⟨hm, hp, h | h⟩⟩
  · rw [register_ungrouped hg]
  · rw [register_invalid hg rfl h]
    rfl
  · rw [register_broken hg rfl hm hp h]
    rfl
  · rw [register_registers hg rfl hm hp h]
    rfl

/-! ## Becoming head -/

section
variable {s : State} {i : StreamId} {q : Request} {l : List Request} (hk : q.kind = .capture)
include hk

/-- An ungrouped CAPTURE that becomes head is WAITING (R15). -/
theorem adoptHead_ungrouped (hg : q.group = none) : adoptHead i (q :: l) s = s.withStream i { s.streams[i] with
    prefetch := q :: l, deadline := if q.deadline = 0 then none else some s.timeBase } :=
  adoptHead_waits hk (register_ungrouped hg)

section
variable {g : GroupId} {e : Group} (hg : q.group = some g) (he : s.groups[g] = e)
include hg he

theorem adoptHead_invalid (h : e.state = .free ∨ e.mask[i] = false ∨ e.slots[i].progress ≠ .empty) :
    adoptHead i (q :: l) s = adoptHead i l (s.withReady q.entry (.unbound .invalid q.tag 0) q.notify) :=
  adoptHead_refused hk (register_invalid hg he h)

section
variable (hm : e.mask[i] = true) (hp : e.slots[i].progress = .empty)
include hm hp

theorem adoptHead_broken (h : e.state = .broken) : adoptHead i (q :: l) s = adoptHead i l { s with
    groups := s.groups.set g { e with slots := e.slots.set i ⟨.finished, some q, some .groupBroken⟩ }
    holding := s.holding.set q.entry { s.holding[q.entry] with
      state := .parked, report := .unbound .groupBroken q.tag 0 } } := by
  rw [adoptHead_refused hk (register_broken hg he hm hp h)]
  subst he
  rfl

theorem adoptHead_registers (h : e.state = .opened ∨ e.state = .fixed) : adoptHead i (q :: l) s =
    { s.withStream i { s.streams[i] with
        prefetch := q :: l, deadline := if q.deadline = 0 then none else some s.timeBase } with
      groups := s.groups.set g { e with slots := e.slots.set i ⟨.registered, some q, none⟩ } } := by
  rw [adoptHead_waits hk (register_registers hg he hm hp h)]
  subst he
  rfl

end
end
end

/-- The list that a stream had, and its deadline, do not count when another list is adopted. -/
theorem adoptHead_forgets (i : StreamId) (l p : List Request) (d : Option Word) (s : State) :
    adoptHead i l (s.withStream i { s.streams[i] with prefetch := p, deadline := d }) = adoptHead i l s := by
  have last : ∀ (u : State) (m : List Request) (f : Option Word),
      (u.withStream i { u.streams[i] with prefetch := p, deadline := d }).onStream i
        (fun x => { x with prefetch := m, deadline := f }) = u.onStream i fun x => { x with prefetch := m, deadline := f } := by
    intro u m f
    rw [State.onStream_eq, State.withStream_twice, State.withStream_get]
    rfl
  induction l generalizing s with
  | nil => exact last s [] none
  | cons q l ih =>
    cases hk : q.kind with
    | mark =>
      rw [adoptHead_mark hk, adoptHead_mark hk]
      exact ih (s.entryReady q.entry (q.unboundReport .ok) q.notify)
    | capture =>
      have hreg := register_withStream s i i q { s.streams[i] with prefetch := p, deadline := d }
      have hsame := streams_register s i q
      cases h : s.register i q with
      | mk u stays =>
        rw [h] at hreg hsame
        dsimp only at hreg hsame
        cases stays with
        | true =>
          rw [adoptHead_waits hk hreg, adoptHead_waits hk h]
          have h := last u (q :: l) (if q.deadline = 0 then none else some u.timeBase)
          rw [hsame] at h
          exact h
        | false =>
          rw [adoptHead_refused hk hreg, adoptHead_refused hk h]
          have h := ih u
          rw [hsame] at h
          exact h

/-- The other streams do not change with a new head. -/
theorem adoptHead_stream {i k : StreamId} (h : i ≠ k) (l : List Request) (s : State) :
    (adoptHead k l s).streams[i] = s.streams[i] := by
  induction l generalizing s with
  | nil => exact State.onStream_get_ne s h _
  | cons q l ih =>
    cases hk : q.kind with
    | mark =>
      rw [adoptHead_mark hk]
      exact ih _
    | capture =>
      have hsame := streams_register s k q
      cases hr : s.register k q with
      | mk u stays =>
        rw [hr] at hsame
        cases stays with
        | true =>
          rw [adoptHead_waits hk hr, State.onStream_get_ne u h]
          exact congrArg (·[i]) hsame
        | false =>
          rw [adoptHead_refused hk hr, ih]
          exact congrArg (·[i]) hsame

/-! ## The head finishes -/

/-- A break leaves the streams alone whose member is not registered. -/
theorem breakGroup_stream {s : State} {g : GroupId} {i : StreamId} (h : s.groups[g].slots[i].progress ≠ .registered) :
    (s.breakGroup g).streams[i] = s.streams[i] := by
  by_cases hs : s.groups[g].state = .opened ∨ s.groups[g].state = .fixed
  · have hne : ∀ k ∈ s.groups[g].waiting, i ≠ k := fun k hk e => h (mem_waiting.mp (e ▸ hk))
    have heads : ∀ (l : List StreamId) (u : State), (∀ k ∈ l, i ≠ k) →
        (l.foldl (fun u k => adoptHead k u.streams[k].prefetch u) u).streams[i] = u.streams[i] := by
      intro l
      induction l with
      | nil => exact fun _ _ => rfl
      | cons k l ih =>
        intro u hl
        rw [List.foldl_cons, ih _ fun m hm => hl m (List.mem_cons_of_mem k hm)]
        exact adoptHead_stream (hl k List.mem_cons_self) _ u
    rw [breakGroup_eq rfl hs, heads _ _ hne, streams_resolveGroup]
    refine foldl_pointUpdate_other (fun k hk a f hka => ?_) _
    obtain ⟨r, -, e⟩ := Option.map_eq_some_iff.mp hka
    obtain ⟨rfl, -⟩ := Prod.mk.inj e
    exact fun e => hne k hk e.symm
  · have : s.groups[g].state = .free ∨ s.groups[g].state = .broken := by
      cases hc : s.groups[g].state <;> simp_all
    rw [breakGroup_same this]

section
variable {s : State} {i : StreamId} {q : Request} {rest : List Request} {status : Status}
  (hl : s.streams[i].prefetch = q :: rest)
include hl

/-- An ungrouped head finishes: its entry is READY, and the requests behind it become head (R16). -/
theorem finishHead_ungrouped (hg : q.group = none) :
    s.finishHead i status = adoptHead i rest (s.withReady q.entry (.unbound status q.tag 0) q.notify) := by
  have hmember : s.memberOf i q = none := by unfold State.memberOf; rw [hg]
  have hrecord : s.record i q (q.unboundReport status) = s.withReady q.entry (.unbound status q.tag 0) q.notify := by
    unfold State.record
    rw [hmember]
    rfl
  have hnew : ∀ u : State, ((u.onStream i fun x => { x with prefetch := rest, deadline := none }).memberFinished none status).newHead i
      = adoptHead i rest u := by
    intro u
    unfold State.newHead State.memberFinished
    dsimp only
    rw [State.onStream_get, State.onStream_eq]
    exact adoptHead_forgets i rest rest none u
  unfold State.finishHead
  rw [hl]
  dsimp only
  rw [hmember, hrecord, hnew]

/-- A registered member at the head finishes with a status that breaks its group: its entry is PARKED, its slot finished,
the group breaks, and the requests behind it become head (R121, R122). -/
theorem finishHead_member {g : GroupId} {e : Group} (hg : q.group = some g) (he : s.groups[g] = e)
    (hslot : e.slots[i] = ⟨.registered, some q, none⟩) (hs : e.state = .opened ∨ e.state = .fixed)
    (hbreaks : status.keepsGroup = false) :
    s.finishHead i status = adoptHead i rest ({ s.withStream i { s.streams[i] with prefetch := rest, deadline := none } with
      groups := s.groups.set g { e with slots := e.slots.set i ⟨.finished, some q, some status⟩ }
      holding := s.holding.set q.entry { s.holding[q.entry] with
        state := .parked, report := .unbound status q.tag 0 } }.breakGroup g) := by
  have hmember : s.memberOf i q = some g := by
    unfold State.memberOf
    rw [hg]
    dsimp only
    rw [he, hslot, if_pos (by simp [MemberSlot.holds])]
  have hrecord : (s.record i q (q.unboundReport status)).onStream i (fun x => { x with prefetch := rest, deadline := none }) =
      { s.withStream i { s.streams[i] with prefetch := rest, deadline := none } with
        groups := s.groups.set g { e with slots := e.slots.set i ⟨.finished, some q, some status⟩ }
        holding := s.holding.set q.entry { s.holding[q.entry] with
          state := .parked, report := .unbound status q.tag 0 } } := by
    unfold State.record
    rw [hmember]
    subst he
    rfl
  unfold State.finishHead
  rw [hl]
  dsimp only
  rw [hmember, hrecord]
  generalize hv : ({ s.withStream i { s.streams[i] with prefetch := rest, deadline := none } with
        groups := s.groups.set g { e with slots := e.slots.set i ⟨.finished, some q, some status⟩ }
        holding := s.holding.set q.entry { s.holding[q.entry] with
          state := .parked, report := .unbound status q.tag 0 } } : State) = v
  have hgroup : v.groups[g] = { e with slots := e.slots.set i ⟨.finished, some q, some status⟩ } := by
    rw [← hv]
    exact (get_set _ _ _ _).trans (if_pos rfl)
  have hprogress : v.groups[g].slots[i].progress ≠ .registered := by
    have : v.groups[g].slots[i] = ⟨.finished, some q, some status⟩ := by
      rw [hgroup]
      exact (get_set _ _ _ _).trans (if_pos rfl)
    rw [this]
    exact SlotProgress.noConfusion
  have hlist : (v.breakGroup g).streams[i].prefetch = rest := by
    rw [breakGroup_stream hprogress, ← hv]
    exact congrArg StreamState.prefetch (State.withStream_get s i _)
  have hres : (v.breakGroup g).groups[g].resolves = false := breakGroup_resolves (by rw [hgroup]; exact hs)
  have hfin : v.memberFinished (some g) status = v.breakGroup g := by
    unfold State.memberFinished
    dsimp only
    rw [hbreaks]
    exact State.resolveGroup_same hres
  rw [hfin, State.newHead, hlist]

end

/-- Settles O42: the timer finishes the head, and `adoptHead` is said clause by clause. -/
theorem deadlineExpires : Obligations.DeadlineExpires := by
  unfold Obligations.DeadlineExpires
  refine ⟨fun s i start q rest hd hl => ?_, fun u i q rest => ⟨rfl, fun hk => adoptHead_mark hk, ?_⟩⟩
  · have hexec : exec (.deadlineTimerRunsOut i) s = .next (if ranOut s.timeBase start (q.deadline * 1000) then
        (s.finishHead i .expired).conclude else s) := by
      change Host.Outcome.next _ = _
      rw [hd, hl]
    refine ⟨fun hlt => ?_, fun hle => ⟨fun hg => ?_, fun g e hg he hslot hs => ?_⟩⟩
    · rw [hexec, if_neg (by simpa [ranOut] using hlt)]
    · rw [hexec, if_pos (by simpa [ranOut] using hle), finishHead_ungrouped hl hg]
    · rw [hexec, if_pos (by simpa [ranOut] using hle), finishHead_member hl hg he hslot hs rfl]
  · rintro hk v rfl
    refine ⟨adoptHead_ungrouped hk, fun g e hg he => ⟨adoptHead_invalid hk hg he, fun hm hp => ⟨?_, ?_⟩⟩⟩
    · exact adoptHead_registers hk hg he hm hp
    · exact adoptHead_broken hk hg he hm hp

end Sys2Proof.Proofs
end

section
/-! Slot reads (R137 to R142, R12): O13, O14, O15, O16. -/
namespace Sys2Proof.Proofs
open Sys2Proof.Machine

/-! ## Fetching -/

theorem streamOfRing_ringOfStream (i : StreamId) : streamOfRing (ringOfStream i) = some i := by
  revert i; decide

theorem ringOfStream_ne_zero (i : StreamId) : ringOfStream i ≠ 0 := by
  revert i; decide

theorem pendingCount_pos (x : Ring) : 0 < x.pendingCount ↔ x.producer ≠ x.fetched := by
  unfold Ring.pendingCount
  bv_omega

theorem mem_entriesOf {e : EntryId} {r : RingId} : e ∈ entriesOf r ↔ ringOfEntry e = r := by
  unfold entriesOf
  rw [List.mem_filter, decide_eq_true_eq]
  exact and_iff_right (List.mem_finRange e)

theorem freeEntry_isSome (s : State) (r : RingId) :
    (s.freeEntry r).isSome = true ↔ ∃ e, ringOfEntry e = r ∧ s.holding[e].state = .free := by
  unfold State.freeEntry
  rw [List.find?_isSome]
  simp only [mem_entriesOf, decide_eq_true_eq]

theorem listHasRoom_iff (s : State) (r : RingId) :
    s.listHasRoom r = true ↔ ∀ i, ringOfStream i = r → s.streams[i].prefetch.length < 4 := by
  unfold State.listHasRoom
  by_cases h : r = 0
  · have : streamOfRing r = none := by rw [h]; rfl
    rw [this]
    exact iff_of_true rfl fun i hi => absurd (hi.trans h) (ringOfStream_ne_zero i)
  · obtain ⟨i, rfl⟩ : ∃ i, ringOfStream i = r := ⟨r.pred h, Fin.succ_pred r h⟩
    rw [streamOfRing_ringOfStream]
    dsimp only
    rw [decide_eq_true_eq]
    refine ⟨fun hl k hk => ?_, fun hl => hl i rfl⟩
    obtain rfl := Fin.succ_injective 4 hk
    exact hl

theorem mayFetch_iff (s : State) (r : RingId) : s.mayFetch r = true ↔
    s.device = .running ∧ s.rings[r].state = .active ∧ s.rings[r].producer ≠ s.rings[r].fetched
    ∧ s.rings[r].inFlight = false ∧ (∃ e, ringOfEntry e = r ∧ s.holding[e].state = .free)
    ∧ ∀ i, ringOfStream i = r → s.streams[i].prefetch.length < 4 := by
  unfold State.mayFetch
  simp only [Bool.and_eq_true, decide_eq_true_eq, Bool.not_eq_true', and_assoc]
  rw [pendingCount_pos, freeEntry_isSome, listHasRoom_iff]

/-- The place behind every entry of a ring is behind each entry in use (R139). -/
theorem order_lt_nextOrder {s : State} {e : EntryId} (h : s.holding[e].state ≠ .free) :
    s.holding[e].order < s.nextOrder (ringOfEntry e) := by
  have grows : ∀ (l : List EntryId) (n : Nat),
      n ≤ l.foldl (fun n e => if s.holding[e].state = .free then n else max n (s.holding[e].order + 1)) n
      ∧ (e ∈ l → s.holding[e].order
        < l.foldl (fun n e => if s.holding[e].state = .free then n else max n (s.holding[e].order + 1)) n) := by
    intro l
    induction l with
    | nil => exact fun n => ⟨Nat.le_refl n, fun hm => absurd hm List.not_mem_nil⟩
    | cons f l ih =>
      intro n
      rw [List.foldl_cons]
      obtain ⟨hle, hmem⟩ := ih (if s.holding[f].state = .free then n else max n (s.holding[f].order + 1))
      refine ⟨le_trans ?_ hle, fun hm => ?_⟩
      · split
        · exact Nat.le_refl n
        · exact Nat.le_max_left ..
      · rcases List.mem_cons.mp hm with rfl | hm
        · rw [if_neg h] at hle ⊢
          exact lt_of_lt_of_le (lt_of_lt_of_le (Nat.lt_succ_self _) (Nat.le_max_right ..)) hle
        · exact hmem hm
  exact (grows (entriesOf (ringOfEntry e)) 0).2 (mem_entriesOf.mpr rfl)

theorem grantFetch_eq {s : State} {r : RingId} {e : EntryId} {j : Fin Config.readEntries} (he : s.freeEntry r = some e)
    (hj : s.nextRead j) {slot : Nat} (hslot : slot = s.rings[r].fetched.toNat % s.rings[r].slots) :
    s.grantFetch r = { s with
      holding := s.holding.set e { HoldingEntry.free with state := .reserved, order := s.nextOrder r, slotIndex := slot }
      rings := s.rings.set r { s.rings[r] with fetched := s.rings[r].fetched + 1, inFlight := true }
      fetchRotation := r + 1
      reads := s.reads.set j (.issued ⟨.slotFetch, some (.slot e), s.rings[r].base + BitVec.ofNat 64 (64 * slot), 64,
        s.timeBase, s.responseTimeout, []⟩)
      handed := some ⟨.read, j, s.rings[r].base + BitVec.ofNat 64 (64 * slot), 64, []⟩ } := by
  subst hslot
  unfold State.grantFetch
  rw [he]
  exact issueRead_next (s := { (s.onEntry e fun _ => { HoldingEntry.free with
      state := .reserved, order := s.nextOrder r, slotIndex := slotOf s.rings[r].fetched s.rings[r].slots }).onRing r
        fun x => { x with fetched := x.fetched + 1, inFlight := true } with fetchRotation := r + 1 }) hj ..

/-- Settles O13: the arbiter's search finds the ring, the lowest entry and the lowest tracker entry. -/
theorem fetchGranted : Obligations.FetchGranted := by
  unfold Obligations.FetchGranted
  intro s
  have hexec : exec .fetchGrant s = .next (match s.fetchChoice with | some r => s.grantFetch r | none => s) := rfl
  refine ⟨fun r e j slot hd hr hp hf he hring hlow hroom hbefore hj hslot => ?_, fun h => ?_, fun e => order_lt_nextOrder,
    mayFetch_iff s, fun v hv => by unfold State.responseTimeout; rw [hv]⟩
  · have hmay : s.mayFetch r = true := (mayFetch_iff s r).mpr ⟨hd, hr, hp, hf, ⟨e, hring, he⟩, hroom⟩
    have hchoice : s.fetchChoice = some r := by
      unfold State.fetchChoice
      rw [lowestFree_eq_some hj]
      exact rotation_find hmay hbefore
    rw [hexec, hchoice]
    exact congrArg Host.Outcome.next (grantFetch_eq (State.freeEntry_eq_some he hring hlow) hj hslot)
  · have hchoice : s.fetchChoice = none := by
      unfold State.fetchChoice
      rcases h with h | h
      · split
        · exact rotation_none _ h
        · rfl
      · rw [lowestFree_eq_none h]
        rfl
    rw [hexec, hchoice]

/-! ## The records of requests -/

theorem byteAt_lt (r : List Byte) (i : Nat) : byteAt r i < 256 := (r.getD i 0).isLt

theorem leField_lt (r : List Byte) (o n : Nat) : leField r o n < 256 ^ n := by
  induction n generalizing o with
  | zero => exact Nat.one_pos
  | succ n ih =>
    have h := ih (o + 1)
    have hb := byteAt_lt r o
    rw [leField, Nat.pow_succ]
    omega

theorem toNat_leField8 (r : List Byte) (o : Nat) : (BitVec.ofNat 64 (leField r o 8)).toNat = leField r o 8 :=
  BitVec.toNat_ofNat _ _ ▸ Nat.mod_eq_of_lt (leField_lt r o 8)

theorem ofNat_leField_eq_zero {w n : Nat} (h : 256 ^ n = 2 ^ w) (r : List Byte) (o : Nat) :
    BitVec.ofNat w (leField r o n) = 0 ↔ leField r o n = 0 := by
  rw [← BitVec.toNat_inj, BitVec.toNat_ofNat, Nat.mod_eq_of_lt (h ▸ leField_lt r o n)]
  rfl

theorem assemblyOf_isSome (v : Nat) : (assemblyOf v).isSome = true ↔ v ≤ 2 := by
  unfold assemblyOf
  split <;> simp_all
  omega

theorem formatOf_isSome (v : Nat) : (formatOf v).isSome = true ↔ v ≤ 2 := by
  unfold formatOf
  split <;> simp_all
  omega

theorem selectorOf_isSome (v : Nat) : (selectorOf v).isSome = true ↔ v ≤ 1 := by
  unfold selectorOf
  split <;> simp_all
  omega

theorem assemblyOf_split (v : Nat) : (assemblyOf v).getD .plain = .split ↔ v = 2 := by
  unfold assemblyOf
  split <;> simp_all

/-- The selector of a record that names one (R8). -/
theorem selectorOf_next {v : Nat} (h : v ≤ 1) : (selectorOf v).getD .next = .next ↔ v = 0 := by
  obtain rfl | rfl : v = 0 ∨ v = 1 := by omega
  · decide
  · decide

theorem selectorOf_numbered {v : Nat} (h : v ≤ 1) : (selectorOf v).getD .next = .numbered ↔ v ≠ 0 := by
  obtain rfl | rfl : v = 0 ∨ v = 1 := by omega
  · decide
  · decide

/-- The row bytes of a record that names a format (R7). -/
theorem rowBytes_formatOf {v : Nat} (h : v ≤ 2) (n : Nat) : rowBytes ((formatOf v).getD .u16) n
    = if v = 0 then 2 * n else if v = 1 then n else n * 3 / 2 := by
  obtain rfl | rfl | rfl : v = 0 ∨ v = 1 ∨ v = 2 := by omega
  · exact Nat.mul_comm n 2
  · rfl
  · rfl

theorem fits_iff (q : Request) : q.fits = true ↔
    q.top ≤ 16383 ∧ 1 ≤ q.rows ∧ q.rows ≤ 16384 ∧ q.top + q.rows ≤ 16384
    ∧ q.left ≤ 4088 ∧ q.left % 8 = 0 ∧ 8 ≤ q.cols ∧ q.cols ≤ 4096 ∧ q.cols % 8 = 0 ∧ q.left + q.cols ≤ 4096
    ∧ q.pitch % 64 = 0 ∧ rowBytes q.format q.cols ≤ q.pitch ∧ q.pitch ≤ 1048512 ∧ q.buffer.toNat % 64 = 0
    ∧ q.pitch * (q.rows - 1) + rowBytes q.format q.cols ≤ q.length ∧ q.buffer.toNat + q.length ≤ 2 ^ 64
    ∧ (q.assembly = .split → q.plane2 ≠ 0 ∧ q.plane2.toNat % 64 = 0 ∧ q.plane2.toNat + q.length ≤ 2 ^ 64)
    ∧ (q.assembly ≠ .split → q.plane2 = 0) := by
  unfold Request.fits
  cases q.assembly <;> simp [and_assoc]

theorem validMark_iff (r : List Byte) : validMark r = true ↔
    (byteAt r 11 = 0 ∨ byteAt r 11 = 8) ∧ ∀ k, 1 ≤ k → k < 64 → ¬(4 ≤ k ∧ k < 8) → k ≠ 11 → byteAt r k = 0 := by
  unfold validMark
  simp only [Bool.and_eq_true, Bool.or_eq_true, beq_iff_eq, zeroAt_iff]
  constructor
  · rintro ⟨⟨⟨hlow, hmid⟩, h11⟩, hhigh⟩
    refine ⟨h11, fun k hk hk' hn hne => ?_⟩
    rcases (by omega : k < 4 ∨ (8 ≤ k ∧ k < 11) ∨ 12 ≤ k) with h | h | h
    · exact hlow k hk h
    · exact hmid k h.1 h.2
    · exact hhigh k h hk'
  · rintro ⟨h11, h⟩
    exact ⟨⟨⟨fun k hk hk' => h k hk (by omega) (by omega) (by omega), fun k hk hk' => h k (by omega) (by omega) (by omega) (by omega)⟩,
      h11⟩, fun k hk hk' => h k (by omega) hk' (by omega) (by omega)⟩

theorem validCapture_iff (e : EntryId) (r : List Byte) : validCapture r (readRequest e .capture r) = true ↔
    byteAt r 1 ≤ 2 ∧ byteAt r 2 ≤ 2 ∧ byteAt r 3 ≤ 1
    ∧ (byteAt r 3 = 0 → leField r 8 2 = 0) ∧ byteAt r 10 ≤ 8 ∧ (byteAt r 10 ≠ 0 → byteAt r 3 = 0) ∧ byteAt r 11 < 16
    ∧ (readRequest e .capture r).fits = true
    ∧ ∀ k, k = 22 ∨ k = 23 ∨ (28 ≤ k ∧ k < 32) ∨ (56 ≤ k ∧ k < 64) → byteAt r k = 0 := by
  have hzero : (((∀ k, 22 ≤ k → k < 24 → byteAt r k = 0) ∧ ∀ k, 28 ≤ k → k < 32 → byteAt r k = 0)
        ∧ ∀ k, 56 ≤ k → k < 64 → byteAt r k = 0)
      ↔ ∀ k, k = 22 ∨ k = 23 ∨ (28 ≤ k ∧ k < 32) ∨ (56 ≤ k ∧ k < 64) → byteAt r k = 0 := by
    constructor
    · rintro ⟨⟨ha, hb⟩, hc⟩ k (rfl | rfl | ⟨h, h'⟩ | ⟨h, h'⟩)
      · exact ha 22 (by decide) (by decide)
      · exact ha 23 (by decide) (by decide)
      · exact hb k h h'
      · exact hc k h h'
    · exact fun h => ⟨⟨fun k hk hk' => h k (by omega), fun k hk hk' => h k (.inr (.inr (.inl ⟨hk, hk'⟩)))⟩,
        fun k hk hk' => h k (.inr (.inr (.inr ⟨hk, hk'⟩)))⟩
  unfold validCapture
  simp only [Bool.and_eq_true, decide_eq_true_eq, zeroAt_iff, assemblyOf_isSome, formatOf_isSome, selectorOf_isSome, and_assoc]
  rw [← hzero, and_assoc]
  refine and_congr_right fun _ => and_congr_right fun _ => and_congr_right fun hsel => ?_
  refine and_congr ?_ (and_congr_right fun _ => and_congr ?_ Iff.rfl)
  · rw [Bool.or_eq_true, bne_iff_ne, beq_iff_eq]
    change ¬((selectorOf (byteAt r 3)).getD .next = .next) ∨ BitVec.ofNat 16 (leField r 8 2) = 0 ↔ _
    rw [selectorOf_next hsel, ofNat_leField_eq_zero rfl, ← Decidable.imp_iff_not_or]
  · rw [Bool.or_eq_true, bne_iff_ne, beq_iff_eq]
    change byteAt r 10 = 0 ∨ ¬((selectorOf (byteAt r 3)).getD .next = .numbered) ↔ _
    rw [selectorOf_numbered hsel, not_not, Decidable.or_iff_not_imp_left]

/-- A record passes validation as a CAPTURE or as a MARK (R12). -/
theorem validateRequest_iff (e : EntryId) (r : List Byte) : validateRequest e r ≠ none ↔
    (byteAt r 0 = 2 ∧ validMark r = true) ∨ (byteAt r 0 = 1 ∧ validCapture r (readRequest e .capture r) = true) := by
  unfold validateRequest
  dsimp only
  split
  · next h => simp [h]
  · next h =>
    split
    · next h2 => simp [h2]
    · next h2 => simp [h, h2]

/-- The request of a record that passes stands in the entry of its slot. -/
theorem validateRequest_entry {e : EntryId} {r : List Byte} {q : Request} (h : validateRequest e r = some q) : q.entry = e := by
  unfold validateRequest at h
  dsimp only at h
  split at h
  · obtain ⟨-, hq⟩ := Option.ite_none_right_eq_some.mp h
    exact (Option.some.inj hq) ▸ rfl
  · split at h
    · obtain ⟨-, hq⟩ := Option.ite_none_right_eq_some.mp h
      exact (Option.some.inj hq) ▸ rfl
    · cases h

/-! ## Landing -/

section
variable {s : State} {j : Fin Config.readEntries} {e : EntryId} {b : Beat} {i : StreamId} (hfor : s.readingFor j (.slot e))
include hfor

theorem exec_slotReadLands (hd : s.device ≠ .resetting) {r : List Byte} (hr : s.landsWith j b r)
    (hring : ringOfEntry e = ringOfStream i) :
    exec (.slotReadLands j b) s = .next ((s.readFreed j).landSlot i e r).conclude := by
  refine congrArg Host.Outcome.next (takeBeat_lands hfor hd hr fun t ho => ?_)
  rw [ho]
  dsimp only
  rw [hring, streamOfRing_ringOfStream]

theorem exec_slotReadFails (hd : s.device ≠ .resetting) (hb : s.failsWith j b) :
    exec (.slotReadFails j b) s = .next ((s.readFreed j).slotFails e).conclude :=
  congrArg Host.Outcome.next (takeBeat_fails hfor hd hb fun t ho => by rw [ho])

end

/-- Data that reach a RUNNING device's list (R140). -/
theorem landSlot_running {s : State} {i : StreamId} {e : EntryId} {r : List Byte} (hd : s.device = .running)
    (ha : s.beingAborted i = false) (hh : s.rings[ringOfStream i].state ≠ .halted) :
    (∀ q, validateRequest e r = some q →
      s.landSlot i e r = (s.onRing (ringOfStream i) fun x => { x with inFlight := false }).joinList i q)
    ∧ (validateRequest e r = none →
      s.landSlot i e r = (s.onRing (ringOfStream i) fun x => { x with inFlight := false }).withReady e
        (.unbound .invalid (slotTag r) 0) (slotNotify r)) := by
  have hstate : (s.onRing (ringOfStream i) fun x => { x with inFlight := false }).rings[ringOfStream i].state
      = s.rings[ringOfStream i].state :=
    (congrArg Machine.Ring.state (State.onRing_get s (ringOfStream i) fun x => { x with inFlight := false }) :)
  have hab : (s.onRing (ringOfStream i) fun x => { x with inFlight := false }).beingAborted i = false := ha
  unfold State.landSlot
  dsimp only
  rw [State.onRing_device, hd, hstate, hab, if_neg (by decide), if_neg (by simpa using hh)]
  exact ⟨fun q hq => by rw [hq], fun hn => by rw [hn]; rfl⟩

/-- A request joins the tail of a list that is not empty (R14). -/
theorem joinList_tail {s : State} {i : StreamId} (h : s.streams[i].prefetch ≠ []) (q : Request) :
    s.joinList i q = s.withStream i { s.streams[i] with prefetch := s.streams[i].prefetch ++ [q] } := by
  unfold State.joinList
  split
  · next hn => exact absurd hn h
  · rfl

theorem joinList_head {s : State} {i : StreamId} (h : s.streams[i].prefetch = []) (q : Request) :
    s.joinList i q = adoptHead i [q] s := by
  unfold State.joinList
  rw [h]

/-- The last request of a list that leaves it empty. -/
theorem adoptHead_empty {s : State} {i : StreamId} (h : s.streams[i].prefetch = []) :
    adoptHead i [] s = s.withStream i { s.streams[i] with deadline := none } := by
  unfold adoptHead
  rw [State.onStream_eq]
  generalize s.streams[i] = x at h
  rw [← h]

/-- Settles O14: the request joins the tail, or becomes head as `adoptHead` has it. -/
theorem slotJoinsList : Obligations.SlotJoinsList := by
  unfold Obligations.SlotJoinsList
  rintro s j e i b r q hfor hr hring hd ha hh hq l rfl
  have hexec : exec (.slotReadLands j b) s = .next (State.joinList { s.readFreed j with
      rings := s.rings.set (ringOfStream i) { s.rings[ringOfStream i] with inFlight := false } } i q).conclude := by
    rw [exec_slotReadLands hfor (by rw [hd]; decide) hr hring, (landSlot_running (s := s.readFreed j) hd ha hh).1 q hq]
    rfl
  have he : q.entry = e := validateRequest_entry hq
  rw [hexec]
  generalize hl : ({ s.readFreed j with
      rings := s.rings.set (ringOfStream i) { s.rings[ringOfStream i] with inFlight := false } } : State) = l
  have hstreams : l.streams = s.streams := by rw [← hl]; rfl
  have hgroups : l.groups = s.groups := by rw [← hl]; rfl
  have hholding : l.holding = s.holding := by rw [← hl]; rfl
  have htime : l.timeBase = s.timeBase := by rw [← hl]; rfl
  clear hl hexec
  rw [← hstreams, ← hgroups, ← hholding, ← htime, ← he]
  refine ⟨fun hne => ?_, fun hp hk hg => ?_, fun hp hk => ?_, fun g x hp hk hg hx => ⟨fun h => ?_, fun hm hempty => ⟨fun h => ?_, fun h => ?_⟩⟩⟩
  · rw [joinList_tail hne]
  · rw [joinList_head hp, adoptHead_ungrouped hk hg]
  · rw [joinList_head hp, adoptHead_mark hk]
    exact congrArg (fun u : State => Host.Outcome.next u.conclude) (adoptHead_empty hp)
  · rw [joinList_head hp, adoptHead_invalid hk hg hx h]
    exact congrArg (fun u : State => Host.Outcome.next u.conclude) (adoptHead_empty hp)
  · rw [joinList_head hp, adoptHead_registers hk hg hx hm hempty h]
  · rw [joinList_head hp, adoptHead_broken hk hg hx hm hempty h]
    exact congrArg (fun u : State => Host.Outcome.next u.conclude) (adoptHead_empty hp)

/-- Settles O15: what the landing decides before validation, and the checks of R12 one by one. -/
theorem slotFinishes : Obligations.SlotFinishes := by
  unfold Obligations.SlotFinishes
  refine ⟨?_, ?_⟩
  · rintro s j e i b r hfor hr hring l rfl
    refine ⟨fun hd => ?_, fun hnf hnr hwhy => ?_, fun hd ha hh hv => ?_⟩
    · rw [exec_slotReadLands hfor (by rw [hd]; decide) hr hring]
      exact congrArg (fun u : State => Host.Outcome.next u.conclude) (if_pos hd)
    · have hstate : ((s.readFreed j).onRing (ringOfStream i) fun x => { x with inFlight := false }).rings[ringOfStream i].state
          = s.rings[ringOfStream i].state :=
        (congrArg Machine.Ring.state (State.onRing_get (s.readFreed j) (ringOfStream i) fun x => { x with inFlight := false }) :)
      rw [exec_slotReadLands hfor hnr hr hring]
      refine congrArg (fun u : State => Host.Outcome.next u.conclude) ((if_neg hnf).trans (if_pos ?_))
      rw [hstate, Bool.or_eq_true, Bool.or_eq_true, decide_eq_true_eq, decide_eq_true_eq]
      exact or_assoc.mpr hwhy
    · rw [exec_slotReadLands hfor (by rw [hd]; decide) hr hring, (landSlot_running (s := s.readFreed j) hd ha hh).2 hv]
      rfl
  · rintro e r row top rows left cols pitch buffer length plane2 rfl rfl rfl rfl rfl rfl rfl rfl hrow
    rw [validateRequest_iff, validMark_iff, validCapture_iff, fits_iff]
    refine or_congr Iff.rfl (and_congr_right fun _ => and_congr_right fun hasm => and_congr_right fun hfmt => ?_)
    have hsplit : (readRequest e .capture r).assembly = .split ↔ byteAt r 1 = 2 := assemblyOf_split _
    have hbytes : rowBytes (readRequest e .capture r).format (readRequest e .capture r).cols = row :=
      (rowBytes_formatOf hfmt _).trans hrow.symm
    have hplane : (readRequest e .capture r).plane2 = 0 ↔ leField r 48 8 = 0 := ofNat_leField_eq_zero rfl r 48
    have hbuffer : (readRequest e .capture r).buffer.toNat = leField r 32 8 := toNat_leField8 r 32
    have hplane' : (readRequest e .capture r).plane2.toNat = leField r 48 8 := toNat_leField8 r 48
    simp only [hbytes, hbuffer, hplane', ne_eq, hsplit, hplane, and_assoc]
    rfl

/-! ## Failing -/

/-- A failed read of a stream's slot (R142). -/
theorem slotFails_stream {s : State} {e : EntryId} {i : StreamId} (hring : ringOfEntry e = ringOfStream i)
    (hs : s.rings[ringOfStream i].state = .active ∨ s.rings[ringOfStream i].state = .halted) :
    s.slotFails e = { s with
      rings := s.rings.set (ringOfStream i) { s.rings[ringOfStream i] with state := .halted, inFlight := false }
      }.withReady e (.unbound .fetchFault 0 0) true := by
  have hhalt : (if s.rings[ringOfStream i].state = .active then RingState.halted else s.rings[ringOfStream i].state) = .halted := by
    rcases hs with h | h <;> rw [h] <;> rfl
  have hrings : ∀ x y : Machine.Ring, (s.rings.set (ringOfStream i) x).set (ringOfStream i) y = s.rings.set (ringOfStream i) y :=
    fun x y => Vector.set_set ..
  unfold State.slotFails
  dsimp only
  rw [hring, if_neg (ringOfStream_ne_zero i)]
  unfold State.onRing State.entryReady State.onEntry
  dsimp only
  rw [hrings, get_set, if_pos rfl]
  dsimp only
  rw [hhalt]
  rfl

/-- A fault leaves every lane in OFF, and all else that streams and lists do not hold as `State.withFault` has it (R200). -/
theorem fault_concludes {s : State} (hd : s.device ≠ .faulted) (c : FaultCause) :
    (s.enterFaulted c).conclude.allLanesOff ∧ (s.enterFaulted c).conclude.outside = (s.withFault c).outside := by
  have hout := outside_enterFaulted hd c
  have hlanes : (s.enterFaulted c).allLanesOff := by
    unfold State.enterFaulted
    rw [if_neg hd]
    exact State.lanesOff_all _
  generalize s.enterFaulted c = u at hout hlanes ⊢
  have hdev : u.device = .faulted := (congrArg State.device hout :)
  refine ⟨State.conclude_lanes (by rw [hdev]; decide) hlanes, ?_⟩
  rcases State.conclude_outside u with ⟨h, -⟩ | ⟨h, -⟩ | ⟨h, -⟩
  · exact h.trans hout
  · rw [hdev] at h; cases h
  · rw [hdev] at h; cases h

/-- Settles O16: the two rings' failures. -/
theorem slotReadFails : Obligations.SlotReadFails := by
  unfold Obligations.SlotReadFails
  intro s j e b hfor hb hd
  have hnr : s.device ≠ .resetting := by rcases hd with h | h <;> rw [h] <;> decide
  have hnf : s.device ≠ .faulted := by rcases hd with h | h <;> rw [h] <;> decide
  refine ⟨fun i hring hs => ?_, fun hring => ?_⟩
  · rw [exec_slotReadFails hfor hnr hb, slotFails_stream (s := s.readFreed j) hring hs]
    rfl
  · rw [exec_slotReadFails hfor hnr hb, slotFails_admin hring]
    exact ⟨_, rfl, fault_concludes (s := (s.readFreed j).onRing 0 fun x => { x with inFlight := false }) hnf .adminFetch⟩

end Sys2Proof.Proofs
end

section
/-! The Admin Unit takes commands (R141, R155, R156), and the rings are made, deleted and resumed: O17, O20, O21. -/
namespace Sys2Proof.Proofs
open Sys2Proof.Machine

/-! ## Commands that start -/

/-- The state with a command in execution, all else unchanged (R155). -/
def inExecution (s : State) (cmd : AdminCommand) : State := { s with admin := { s.admin with executing := some cmd } }

/-- A command in execution that completes leaves the unit with its waiting command alone (R155). -/
theorem complete_eq {s : State} {cmd : AdminCommand} (h : s.admin.executing = some cmd) (x : Status) (d : Word) :
    s.complete x d = s.adminDone cmd.entry cmd.tag x d := by
  unfold State.complete
  rw [h]
  rfl

section
variable {s : State} {e : EntryId} {tag : Word} {op : Option AdminOp}

theorem landCommand_running (hd : s.device = .running) :
    s.landCommand e tag op = (s.onRing 0 fun r => { r with inFlight := false }).handCommand ⟨e, tag, op⟩ := by
  unfold State.landCommand
  dsimp only
  rw [State.onRing_device, if_neg (by rw [hd]; decide), if_neg (by rw [hd]; decide)]

theorem landCommand_waits {cmd : AdminCommand} (hd : s.device = .running) (he : s.admin.executing = some cmd) :
    s.landCommand e tag op = { s.onRing 0 fun r => { r with inFlight := false } with
      admin := { s.admin with waiting := some ⟨e, tag, op⟩ } } := by
  rw [landCommand_running hd]
  unfold State.handCommand
  rw [State.onRing_admin, he]

theorem landCommand_starts (hd : s.device = .running) (he : s.admin.executing = none) :
    s.landCommand e tag op = (inExecution (s.onRing 0 fun r => { r with inFlight := false }) ⟨e, tag, op⟩).run op := by
  rw [landCommand_running hd]
  unfold State.handCommand
  rw [State.onRing_admin, he]
  rfl

theorem landCommand_stopping (hd : s.device = .stopping) : s.landCommand e tag op
    = (s.onRing 0 fun r => { r with inFlight := false }).withReady e (.unbound .aborted tag 0) true := by
  unfold State.landCommand
  dsimp only
  rw [State.onRing_device, if_pos hd]
  rfl

theorem landCommand_faulted (hd : s.device = .faulted) :
    s.landCommand e tag op = s.onRing 0 fun r => { r with inFlight := false } := by
  unfold State.landCommand
  dsimp only
  rw [State.onRing_device, if_neg (by rw [hd]; decide), if_pos hd]

end

/-! ## The slot in flight -/

theorem adminFetch_eq {s : State} {j : Fin Config.readEntries} (h : (s.reads[j]).isAdminFetch = true)
    (hlow : ∀ k < j, (s.reads[k]).isAdminFetch = false) : s.adminFetch = some j := by
  unfold State.adminFetch
  rw [List.find?_eq_some_iff_append]
  refine ⟨h, ?_⟩
  obtain ⟨as, bs, e⟩ := List.append_of_mem (List.mem_finRange j)
  refine ⟨as, bs, e, fun a ha => ?_⟩
  have hp := List.pairwise_lt_finRange Config.readEntries
  rw [e, List.pairwise_append] at hp
  rw [hlow a (hp.2.2 a ha j List.mem_cons_self)]
  rfl

section
variable {s : State} {j : Fin Config.readEntries} {e : EntryId} (h : s.adminReading j e)
include h

/-- The transaction of an admin slot's read (R141). -/
theorem adminReading_transaction : ∃ t, s.reads[j] = .issued t ∧ t.kind = .slotFetch ∧ t.owner = some (.slot e)
    ∧ ringOfEntry e = 0 ∧ beatsOkay t.beats = true := by
  obtain ⟨hfor, hadmin, -, hok⟩ := h
  obtain ⟨t, ht, ho⟩ := TrackerEntry.isFor_cases hfor
  have hcollected : s.collected j = t.beats := by unfold State.collected; rw [ht]
  rw [ht] at hadmin
  unfold TrackerEntry.isAdminFetch at hadmin
  dsimp only at hadmin
  have hbeats : beatsOkay t.beats = true := by
    rw [beatsOkay, List.all_eq_true]
    intro x hx
    rw [decide_eq_true_eq]
    exact hok x (hcollected ▸ hx)
  split at hadmin
  · next f hk hf =>
    rw [ho] at hf
    obtain rfl := Owner.slot.inj (Option.some.inj hf)
    exact ⟨t, ht, hk, ho, of_decide_eq_true hadmin, hbeats⟩
  · cases hadmin

/-- The row of a command is the landing of the slot that holds it (R141). -/
theorem adminCommand_lands (hd : s.device ≠ .resetting) (tag : Word) (op : AdminOp) :
    s.adminCommand tag op = ((s.readFreed j).landCommand e tag (some op)).conclude := by
  obtain ⟨t, ht, hk, ho, hring, hbeats⟩ := adminReading_transaction h
  unfold State.adminCommand
  rw [adminFetch_eq h.2.1 h.2.2.1]
  obtain ⟨t', ht', -, hresp⟩ := State.respond_read h.1 hd
  obtain rfl := TrackerEntry.issued.inj (ht.symm.trans ht')
  refine (hresp _).trans ?_
  rw [if_pos hbeats]
  unfold State.adminAnswer
  rw [hk, ho]
  dsimp only
  rw [if_pos hring]

/-- A command that starts is in execution and carried out (R155). -/
theorem adminCommand_runs (hd : s.device = .running) (he : s.admin.executing = none) (tag : Word) (op : AdminOp) :
    s.adminCommand tag op = ((inExecution (s.adminLanded j) ⟨e, tag, some op⟩).run (some op)).conclude := by
  rw [adminCommand_lands h (by rw [hd]; decide), landCommand_starts (s := s.readFreed j) hd he]
  rfl

/-- The slot lands with its record (R141). -/
theorem exec_adminSlotLands {b : Beat} {r : List Byte} (hr : s.landsWith j b r) (hd : s.device ≠ .resetting) :
    exec (.adminSlotLands j b) s = .next ((s.readFreed j).landCommand e (slotTag r) (readAdminOp r)).conclude := by
  obtain ⟨t, ht, hk, ho, hring, hbeats⟩ := adminReading_transaction h
  obtain ⟨t', ht', -, hresp⟩ := State.respond_read h.1 hd
  obtain rfl := TrackerEntry.issued.inj (ht.symm.trans ht')
  refine congrArg Host.Outcome.next ?_
  rw [State.takeBeat_last hr.1, hresp, State.landsWith_answer hr ht]
  dsimp only
  unfold State.adminAnswer
  rw [hk, ho]
  dsimp only
  rw [if_pos hring]

/-- In RESETTING the slot's read frees its entry, whatever it lands with (R191). -/
theorem respond_adminReading (hd : s.device = .resetting) (f : Transaction → State → Option State) :
    s.respond .read j f = (s.setTracker .read j .free).conclude := by
  obtain ⟨t, ht, -⟩ := adminReading_transaction h
  have hentry : s.trackerEntry .read j = some (.issued t) := ht ▸ s.readEntry_fin j
  unfold State.respond State.meeting
  rw [hentry]
  dsimp only
  rw [if_pos hd]

end

/-! ## The row of a command -/

theorem streamOf_map_fits {f : StreamId → AdminOp} {v : Nat} {op : AdminOp} (h : (streamOf v).map f = some op)
    (hf : ∀ i, (f i).fits = true) : op.fits = true := by
  obtain ⟨i, -, rfl⟩ := Option.map_eq_some_iff.mp h
  exact hf i

theorem groupOf_map_fits {f : GroupId → AdminOp} {v : Nat} {op : AdminOp} (h : (groupOf v).map f = some op)
    (hf : ∀ i, (f i).fits = true) : op.fits = true := by
  obtain ⟨i, -, rfl⟩ := Option.map_eq_some_iff.mp h
  exact hf i

/-- The arguments that a record gives fit their fields (R210). -/
theorem readAdminOp_fits {r : List Byte} {op : AdminOp} (h : readAdminOp r = some op) : op.fits = true := by
  unfold readAdminOp at h
  dsimp only at h
  split at h
  case h_10 => cases h
  all_goals obtain ⟨-, h⟩ := Option.ite_none_right_eq_some.mp h
  · exact streamOf_map_fits h fun i => decide_eq_true (byteAt_lt r 16)
  · exact streamOf_map_fits h fun i => rfl
  · exact streamOf_map_fits h fun i => rfl
  · exact streamOf_map_fits h fun i => decide_eq_true (leField_lt r 16 2)
  · exact streamOf_map_fits h fun i => rfl
  · exact streamOf_map_fits h fun i => rfl
  · exact groupOf_map_fits h fun i => decide_eq_true (leField_lt r 10 2)
  · exact groupOf_map_fits h fun i => rfl
  · exact streamOf_map_fits h fun i => rfl

/-- The row of a well-formed command hands it to the Admin Unit (R141). -/
theorem exec_command {op : AdminOp} (h : op.fits = true) (tag : Word) (s : State) :
    exec (op.command tag) s = .next (s.adminCommand tag op) := by
  have row : ∀ {w n : Nat}, n < 2 ^ w → (BitVec.ofNat w n).toNat = n := fun hn =>
    (BitVec.toNat_ofNat _ _).trans (Nat.mod_eq_of_lt hn)
  cases op with
  | createRing i base log =>
    change Host.Outcome.next (s.adminCommand tag (.createRing i base (BitVec.ofNat 8 log).toNat)) = _
    rw [row (of_decide_eq_true (p := log < 256) h)]
  | loadDefects i list count =>
    change Host.Outcome.next (s.adminCommand tag (.loadDefects i list (BitVec.ofNat 16 count).toNat)) = _
    rw [row (of_decide_eq_true (p := count < 65536) h)]
  | openGroup g mask timeout =>
    change Host.Outcome.next (s.adminCommand tag (.openGroup g mask (BitVec.ofNat 16 timeout).toNat)) = _
    rw [row (of_decide_eq_true (p := timeout < 65536) h)]
  | deleteRing | resumeStream | configureStream | abortStream | closeGroup | readStats => rfl

/-! ## O17 -/

/-- The waiting command, once none is in execution (R155, R158). -/
theorem startWaiting_runs {s : State} {cmd : AdminCommand} (he : s.admin.executing = none) (hw : s.admin.waiting = some cmd)
    (hd : s.device = .running) :
    s.startWaiting = { s with admin := { s.admin with executing := some cmd, waiting := none } }.run cmd.op := by
  unfold State.startWaiting
  rw [he, hw]
  dsimp only
  rw [if_pos hd]
  rfl

theorem canStart_iff (s : State) : s.canStart = true ↔
    s.admin.executing = none ∧ s.admin.waiting ≠ none ∧ s.device = .running := by
  unfold State.canStart
  rw [Bool.and_eq_true, Bool.and_eq_true, Option.isNone_iff_eq_none, ← Option.isSome_iff_ne_none, decide_eq_true_eq, and_assoc]

/-- Settles O17: each clause is a case of `landCommand`, and the row of a command takes the same answer. -/
theorem adminSlotLands : Obligations.AdminSlotLands := by
  unfold Obligations.AdminSlotLands
  refine ⟨fun s j e b r h hr => ⟨fun x hd hx => ?_, fun hd => ?_, fun hd => ?_, fun hd he hop => ?_, fun op hop => ⟨?_, fun hd he => ?_⟩⟩,
    fun s => ⟨fun cmd he hw hd => ?_, fun hn => ?_⟩⟩
  · rw [exec_adminSlotLands h hr (by rw [hd]; decide), landCommand_waits (s := s.readFreed j) hd hx]
    rfl
  · rw [exec_adminSlotLands h hr (by rw [hd]; decide), landCommand_stopping (s := s.readFreed j) hd]
    rfl
  · rw [exec_adminSlotLands h hr (by rw [hd]; decide), landCommand_faulted (s := s.readFreed j) hd]
    rfl
  · rw [exec_adminSlotLands h hr (by rw [hd]; decide), landCommand_starts (s := s.readFreed j) hd he, hop]
    rfl
  · rw [exec_command (readAdminOp_fits hop)]
    by_cases hd : s.device = .resetting
    · refine congrArg Host.Outcome.next ?_
      rw [State.takeBeat_last hr.1, respond_adminReading h hd]
      unfold State.adminCommand
      rw [adminFetch_eq h.2.1 h.2.2.1]
      exact (respond_adminReading h hd _).symm
    · rw [exec_adminSlotLands h hr hd, adminCommand_lands h hd, hop]
  · rw [exec_adminSlotLands h hr (by rw [hd]; decide), landCommand_starts (s := s.readFreed j) hd he, hop]
    rfl
  · have hexec : exec .adminCommandStart s = .next
        ({ s with admin := { s.admin with executing := some cmd, waiting := none } }.run cmd.op).conclude := by
      change Host.Outcome.next (if s.canStart then s.startWaiting.conclude else s) = _
      rw [if_pos ((canStart_iff s).mpr ⟨he, by rw [hw]; exact Option.some_ne_none cmd, hd⟩), startWaiting_runs he hw hd]
    refine ⟨hexec, fun hop => ?_⟩
    rw [hexec, hop]
    rfl
  · change Host.Outcome.next (if s.canStart then s.startWaiting.conclude else s) = _
    rw [if_neg]
    rw [canStart_iff]
    rintro ⟨he, hw, hd⟩
    rcases hn with hn | hn | hn
    · exact hn he
    · exact hw hn
    · exact hn hd

/-! ## Rings -/

/-- With no command waiting nothing starts or ends in a RUNNING device's event. -/
theorem conclude_of_running {s : State} (hd : s.device = .running) (hw : s.admin.waiting = none) :
    s.conclude = s.drain.drain.enqueue := by
  have hout := outside_drained s
  generalize hm : s.drain.drain.enqueue = m at hout
  have hdev : m.device = .running := (congrArg State.device hout :).trans hd
  rw [← hm]
  refine conclude_of_quiet ?_ ?_ ?_
  · rw [← Bool.not_eq_true, canStart_iff]
    exact fun ⟨_, hn, _⟩ => hn ((drain_waiting s).trans hw)
  · rw [hm, ← Bool.not_eq_true, stopEnds_iff, hdev]
    exact fun h => by cases h.1
  · rw [hm, ← Bool.not_eq_true, resetEnds_iff, hdev]
    exact fun h => by cases h.1

/-- A ring is made (R159). -/
theorem runCreateRing_eq {s : State} {cmd : AdminCommand} (i : StreamId) (base : Addr) (log : Nat) :
    (inExecution s cmd).runCreateRing i base log =
      if s.rings[ringOfStream i].state = .absent ∧ 2 ≤ log ∧ log ≤ 10 ∧ base.toNat % 64 = 0 ∧ base.toNat + 64 * 2 ^ log ≤ 2 ^ 64 then
        { s with rings := s.rings.set (ringOfStream i) ⟨.active, base, 2 ^ log, 0, 0, false⟩ }.adminDone cmd.entry cmd.tag .ok 0
      else s.adminDone cmd.entry cmd.tag .invalid 0 := by
  unfold State.runCreateRing
  simp only [Bool.and_eq_true, decide_eq_true_eq, beq_iff_eq, and_assoc]
  rfl

/-- A ring is resumed (R161). -/
theorem runResumeStream_eq {s : State} {cmd : AdminCommand} (i : StreamId) (skip : Bool) :
    (inExecution s cmd).runResumeStream i skip =
      if s.rings[ringOfStream i].state = .halted then
        if skip then
          { s with rings := s.rings.set (ringOfStream i) { s.rings[ringOfStream i] with
            state := .active, fetched := s.rings[ringOfStream i].producer } }.adminDone cmd.entry cmd.tag .ok
              (BitVec.ofNat 32 (s.rings[ringOfStream i].producer - s.rings[ringOfStream i].fetched).toNat)
        else { s with rings := s.rings.set (ringOfStream i) { s.rings[ringOfStream i] with state := .active }
          }.adminDone cmd.entry cmd.tag .ok 0
      else s.adminDone cmd.entry cmd.tag .invalid 0 := by
  unfold State.runResumeStream
  by_cases h : s.rings[ringOfStream i].state = .halted
  · rw [if_pos h]
    refine (if_neg ?_).trans rfl
    rw [bne_iff_ne, not_not]
    exact h
  · rw [if_neg h]
    refine (if_pos ?_).trans rfl
    rw [bne_iff_ne]
    exact h

/-- The rings of streams as they stand after the admin slot's read has landed. -/
theorem adminLanded_ring (s : State) (j : Fin Config.readEntries) (i : StreamId) :
    (s.adminLanded j).rings[ringOfStream i] = s.rings[ringOfStream i] :=
  (get_set _ _ _ _).trans (if_neg (ringOfStream_ne_zero i))

/-- Settles O20: the tests of the two commands, and their rings. -/
theorem createAndResumeRing : Obligations.CreateAndResumeRing := by
  unfold Obligations.CreateAndResumeRing
  refine ⟨fun s j e tag i base log h hd he => ?_, fun s j e tag i skip h hd he => ?_⟩
  · change Host.Outcome.next (s.adminCommand tag (.createRing i base log.toNat)) = _
    rw [adminCommand_runs h hd he, State.run, runCreateRing_eq, adminLanded_ring]
    split <;> rfl
  · change Host.Outcome.next (s.adminCommand tag (.resumeStream i skip)) = _
    rw [adminCommand_runs h hd he, State.run, runResumeStream_eq, adminLanded_ring]
    split
    · split <;> rfl
    · rfl

section
variable {s : State} {cmd : AdminCommand} {i : StreamId}

theorem runDeleteRing_absent (h : s.rings[ringOfStream i].state = .absent) :
    (inExecution s cmd).runDeleteRing i = s.adminDone cmd.entry cmd.tag .invalid 0 :=
  (if_pos h).trans rfl

theorem entriesUsed_iff (s : State) (r : RingId) : (entriesOf r).any (fun e => s.holding[e].state != .free) = true
    ↔ ∃ f, ringOfEntry f = r ∧ s.holding[f].state ≠ .free := by
  simp only [List.any_eq_true, mem_entriesOf, bne_iff_ne]

theorem runDeleteRing_busy (h : s.rings[ringOfStream i].state ≠ .absent)
    (hu : ∃ f, ringOfEntry f = ringOfStream i ∧ s.holding[f].state ≠ .free) :
    (inExecution s cmd).runDeleteRing i = s.adminDone cmd.entry cmd.tag .busy 0 :=
  (if_neg h).trans ((if_pos ((entriesUsed_iff s _).mpr hu)).trans rfl)

theorem runDeleteRing_deletes (h : s.rings[ringOfStream i].state ≠ .absent)
    (hf : ∀ f, ringOfEntry f = ringOfStream i → s.holding[f].state = .free) :
    (inExecution s cmd).runDeleteRing i
      = ((inExecution (s.onRing (ringOfStream i) fun _ => .absent) cmd).breakGroupsOf i).complete .ok 0 := by
  exact (if_neg h).trans ((if_neg (mt (entriesUsed_iff s _).mp fun ⟨f, hr, hn⟩ => hn (hf f hr))).trans rfl)

/-- A break of the groups that name a stream, where none of them is OPEN or FIXED (R124). -/
theorem breakGroupsOf_idle (h : ∀ g : GroupId, s.groups[g].mask[i] = true → s.groups[g].state ≠ .opened ∧ s.groups[g].state ≠ .fixed) :
    s.breakGroupsOf i = s := by
  refine foldl_fixed (fun g => ?_) _
  split
  · next hm =>
    obtain ⟨ho, hf⟩ := h g hm
    refine breakGroup_same ?_
    cases hs : s.groups[g].state with
    | free => exact .inl rfl
    | broken => exact .inr rfl
    | opened => exact absurd hs ho
    | fixed => exact absurd hs hf
  · rfl

end

/-- What follows a break of a stream's groups in the event of the command that makes it (R124). -/
theorem conclude_breakGroupsOf {s : State} {cmd : AdminCommand} (i : StreamId) (hd : s.device = .running) (hw : s.admin.waiting = none)
    (t : State) (ht : t = (((inExecution s cmd).breakGroupsOf i).complete .ok 0).conclude) :
    t.outside = s.outside ∧ t.rings = s.rings
    ∧ ∀ g : GroupId, t.groups[g].mask[i] = true → t.groups[g].state ≠ .opened ∧ t.groups[g].state ≠ .fixed := by
  have hout : (((inExecution s cmd).breakGroupsOf i).complete .ok 0).outside = s.outside := by
    rw [State.outside_quiet.quiet.complete, State.outside_quiet.quiet.breakGroupsOf]
    rfl
  have hshell : (((inExecution s cmd).breakGroupsOf i).complete .ok 0).shell = s.shell := by
    rw [State.shell_quiet.complete, State.shell_quiet.breakGroupsOf]
    rfl
  have hrest : AtRest (fun m => m[i] = true) (((inExecution s cmd).breakGroupsOf i).complete .ok 0) :=
    (atRest_breakGroupsOf (inExecution s cmd) i).calmer
      (.of_eq fun g => by unfold groupHead; rw [(complete_keeps ((inExecution s cmd).breakGroupsOf i) .ok 0).2])
  have hadmin : (((inExecution s cmd).breakGroupsOf i).complete .ok 0).admin.waiting = none := by
    have h : ((inExecution s cmd).breakGroupsOf i).admin = (inExecution s cmd).admin := admin_heads.breakGroupsOf _ i
    rw [complete_admin (by rw [h]; exact Option.some_ne_none cmd), h]
    exact hw
  generalize (((inExecution s cmd).breakGroupsOf i).complete .ok 0) = u at hout hshell hrest hadmin ht
  have hdev : u.device = .running := (congrArg State.device hout :).trans hd
  rw [conclude_of_running hdev hadmin] at ht
  subst ht
  refine ⟨(outside_drained u).trans hout, ?_, ?_⟩
  · have h : u.drain.drain.shell = s.shell := by rw [State.shell_quiet.drain, State.shell_quiet.drain, hshell]
    generalize u.drain.drain = v at h
    exact (congrArg State.rings h :)
  · exact ((hrest.calmer (calmer_drain u)).calmer (calmer_drain u.drain)).calmer (calmer_enqueue _)

/-- Settles O21: the tests of the command; the break of the stream's groups does nothing where none is OPEN or FIXED. -/
theorem deleteRing : Obligations.DeleteRing := by
  unfold Obligations.DeleteRing
  intro s j e tag i h hd he
  have hexec : exec (.deleteRing tag i) s = .next
      ((inExecution (s.adminLanded j) ⟨e, tag, some (.deleteRing i)⟩).runDeleteRing i).conclude := by
    change Host.Outcome.next (s.adminCommand tag (.deleteRing i)) = _
    rw [adminCommand_runs h hd he, State.run]
  rw [hexec, ← adminLanded_ring s j i]
  refine ⟨fun ha => ?_, fun hn hu => ?_, fun hn hf => ?_⟩
  · rw [runDeleteRing_absent ha]
  · rw [runDeleteRing_busy hn hu]
  · rw [runDeleteRing_deletes hn hf]
    have hd' : (s.adminLanded j).device = .running := hd
    have ha : (s.adminLanded j).admin.waiting = s.admin.waiting := rfl
    have hg' : (s.adminLanded j).groups = s.groups := rfl
    rw [← ha, ← hg']
    generalize s.adminLanded j = v at hd'
    refine ⟨fun hg => ?_, fun hw => ⟨_, rfl, ?_⟩⟩
    · rw [breakGroupsOf_idle (s := inExecution (v.onRing (ringOfStream i) fun _ => .absent) _) hg]
      rfl
    · exact conclude_breakGroupsOf (s := v.onRing (ringOfStream i) fun _ => .absent) i hd' hw _ rfl

end Sys2Proof.Proofs
end

section
/-! The completion writer and its answers (R146, R150, R151, R152), and a lane that leaves RUN: O18, O19. -/
namespace Sys2Proof.Proofs
open Sys2Proof.Machine

/-! ## The write-issue rotation -/

/-- The requester that the rotation grants comes before every other ready one (R182). -/
theorem rotation_first {n : Nat} {f g : Fin (n + 1)} {P : Fin (n + 1) → Bool} (h : (Machine.rotation f).find? P = some g)
    {q : Fin (n + 1)} (hq : (q - f).val < (g - f).val) : P q = false := by
  rw [← Bool.not_eq_true]
  intro hp
  obtain ⟨m, hm, hmin⟩ := Finset.exists_min_image (Finset.univ.filter fun q => P q = true) (fun q => (q - f).val)
    ⟨q, Finset.mem_filter.mpr ⟨Finset.mem_univ q, hp⟩⟩
  have hfind := rotation_find (Finset.mem_filter.mp hm).2 fun r hr => Bool.not_eq_true _ ▸ fun hpr =>
    absurd hr (Nat.not_lt.mpr (hmin r (Finset.mem_filter.mpr ⟨Finset.mem_univ r, hpr⟩)))
  obtain rfl := Option.some.inj (hfind.symm.trans h)
  exact absurd hq (Nat.not_lt.mpr (hmin q (Finset.mem_filter.mpr ⟨Finset.mem_univ q, hp⟩)))

/-- A grant needs a device that is RUNNING or STOPPING and a FREE write entry (R182). -/
theorem granted_eq {s : State} (hd : s.device = .running ∨ s.device = .stopping) {j : Fin Config.writeEntries} (hj : s.nextWrite j) :
    s.granted = (rotation s.writeRotation).find? s.requesterReady := by
  unfold State.granted
  rw [lowestFree_eq_some hj, if_pos]
  simpa using hd

theorem granted_of_ready {s : State} (hd : s.device = .running ∨ s.device = .stopping) {j : Fin Config.writeEntries}
    (hj : s.nextWrite j) {g : RequesterId} (hg : s.requesterReady g = true)
    (hb : ∀ q : RequesterId, (q - s.writeRotation).val < (g - s.writeRotation).val → s.requesterReady q = false) :
    s.granted = some g := by
  rw [granted_eq hd hj, rotation_find hg hb]

/-- What stands against a requester's grant (R182). -/
theorem not_granted {s : State} {g : RequesterId} (h : s.requesterReady g = false ∨ (∀ j : Fin Config.writeEntries, s.writes[j] ≠ .free)
    ∨ (s.device ≠ .running ∧ s.device ≠ .stopping)
    ∨ ∃ q : RequesterId, (q - s.writeRotation).val < (g - s.writeRotation).val ∧ s.requesterReady q = true) :
    s.granted ≠ some g := by
  intro hg
  obtain ⟨hd, hready⟩ := State.granted_some hg
  rcases h with h | h | ⟨hr, hs⟩ | ⟨q, hq, hp⟩
  · rw [h] at hready
    cases hready
  · unfold State.granted at hg
    rw [lowestFree_eq_none h] at hg
    simp at hg
  · rcases hd with hd | hd
    · exact hr hd
    · exact hs hd
  · unfold State.granted at hg
    split at hg
    · rw [rotation_first hg hq] at hp
      cases hp
    · cases hg

theorem requesterReady_writer (s : State) : s.requesterReady 0 = true ↔
    s.postQueue ≠ [] ∧ (s.completion.post - s.completion.consumed).toNat < s.completion.slots := by
  unfold State.requesterReady CompletionRing.hasSpace CompletionRing.unread
  rw [if_pos rfl, Bool.and_eq_true, Bool.not_eq_true', decide_eq_true_eq, List.isEmpty_eq_false_iff]

theorem requesterReady_admin (s : State) : s.requesterReady 1 = true ↔ ∃ n, s.admin.snapshot = some n ∧ n.issued = false := by
  unfold State.requesterReady
  rw [if_neg (by decide), if_pos rfl]
  cases s.admin.snapshot with
  | none => simp
  | some n => simp

theorem requesterReady_stream (s : State) {i : StreamId} {q : RequesterId} (h : q.val = i.val + 2) :
    s.requesterReady q = true ↔ s.streams[i].buffer ≠ [] := by
  have hne : ∀ v : RequesterId, v.val < 2 → q ≠ v := fun v hv e => by
    rw [e] at h
    omega
  have hstream : streamOf (q.val - 2) = some i := by
    unfold streamOf
    rw [h, Nat.add_sub_cancel, dif_pos i.isLt]
  unfold State.requesterReady
  rw [if_neg (hne 0 (by decide)), if_neg (hne 1 (by decide)), hstream]
  dsimp only
  rw [Bool.not_eq_true', List.isEmpty_eq_false_iff]

/-! ## Posting -/

theorem length_leBytes (n v : Nat) : (leBytes n v).length = n := by
  induction n generalizing v with
  | zero => rfl
  | succ n ih => rw [leBytes, List.length_cons, ih]

theorem length_completionRecord (r : RingId) (h : HoldingEntry) (l : Bool) : (completionRecord r h l).length = 32 := by
  simp [completionRecord, length_leBytes]

theorem postHead_eq {s : State} {e : EntryId} {rest : List EntryId} {j : Fin Config.writeEntries} (hq : s.postQueue = e :: rest)
    (hj : s.nextWrite j) {slot : Nat} {a : Addr} {h : HoldingEntry} (hslot : slot = s.completion.post.toNat % s.completion.slots)
    (ha : a = s.completion.base + BitVec.ofNat 64 (32 * slot))
    (hh : h = { s.holding[e] with state := .posting, completionSlot := slot }) : s.postHead = { s with
      holding := s.holding.set e h, postQueue := rest
      completion := { s.completion with
        post := s.completion.post + 1
        nextLap := if slot + 1 = s.completion.slots then !s.completion.nextLap else s.completion.nextLap }
      writes := s.writes.set j (.issued ⟨.completionWrite, some (.completion e), a, 32, s.timeBase, s.responseTimeout, []⟩)
      handed := some ⟨.write, j, a, 32, completionRecord (ringOfEntry e) h s.completion.nextLap⟩ } := by
  have hslot' : slotOf s.completion.post s.completion.slots = slot := hslot.symm
  unfold State.postHead
  rw [hq]
  dsimp only
  rw [hslot', State.onEntry_get]
  clear hslot hslot'
  subst ha hh
  refine (issueWrite_next (s := { s with
    holding := s.holding.set e { s.holding[e] with state := .posting, completionSlot := slot }, postQueue := rest
    completion := { s.completion with
      post := s.completion.post + 1
      nextLap := if slot + 1 = s.completion.slots then !s.completion.nextLap else s.completion.nextLap } }) hj ..).trans ?_
  rw [length_completionRecord]
  rfl

/-- Settles O18: the rotation's search for requester 0, and the record that it issues. -/
theorem postIssuesRecord : Obligations.PostIssuesRecord := by
  unfold Obligations.PostIssuesRecord
  intro s
  have hexec : exec .post s = .next (if s.granted = some 0 then { s with writeRotation := 1 }.postHead.enqueue else s) := rfl
  refine ⟨fun e rest j slot a h hd hq hspace hbefore hj hslot ha hh => ?_, fun hn => ?_⟩
  · have hready : s.requesterReady 0 = true := (requesterReady_writer s).mpr ⟨by rw [hq]; exact List.cons_ne_nil e rest, hspace⟩
    rw [hexec, if_pos (granted_of_ready hd hj hready hbefore),
      postHead_eq (s := { s with writeRotation := 1 }) hq hj hslot ha hh]
    rfl
  · rw [hexec, if_neg]
    refine not_granted ?_
    rcases hn with h | h | h | h | h
    · exact .inl (Bool.not_eq_true _ ▸ mt (requesterReady_writer s).mp fun hr => hr.1 h)
    · exact .inl (Bool.not_eq_true _ ▸ mt (requesterReady_writer s).mp fun hr => absurd hr.2 (Nat.not_lt.mpr h))
    · exact .inr (.inl h)
    · exact .inr (.inr (.inl h))
    · exact .inr (.inr (.inr h))

/-! ## A lane that leaves RUN -/

theorem dropStream_withRelink (x : StreamState) (b : Bool) : dropStream { x with relink := b } = { dropStream x with relink := b } := by
  obtain ⟨_, _, _, _, _, _, frame, _, _, _, contexts, _, _, _, _, _⟩ := x
  rcases frame with _ | ⟨_, _, _, bound, _, _, _⟩
  · rfl
  rcases bound with _ | c
  · rfl
  dsimp only [dropStream]
  cases contexts[c] <;> rfl

/-- A lane in RUN that goes to OFF leaves the relink pending, and its frame closes LINK_LOST (R51, R59). -/
theorem laneOff_run {s : State} {i : StreamId} (h : s.streams[i].lane.state = .run) :
    s.laneOff i = (s.withStream i { s.streams[i] with lane := .off, relink := true }).linkDropped i := by
  unfold State.laneOff
  dsimp only
  rw [if_pos h, closeFrame_linkLost, linkDropped_eq, localUpdate_between, linkDropped_eq]
  unfold localUpdate
  rw [State.withStream_get]
  refine Eq.trans ?_ (congrArg (fun u : State => ({ u with
    pairing := dropHeld i { s.streams[i] with lane := .off, relink := true } s.pairing } : State)) (State.withStream_twice ..).symm)
  exact congrArg (fun x : StreamState => ({ s.withStream i x with pairing := dropHeld i s.streams[i] s.pairing } : State))
    (dropStream_withRelink { s.streams[i] with lane := .off } true).symm

theorem laneOff_idle {s : State} {i : StreamId} (h : s.streams[i].lane.state ≠ .run) :
    s.laneOff i = s.withStream i { s.streams[i] with lane := .off } := by
  unfold State.laneOff
  exact if_neg h

theorem linkDropped_none {s : State} {i : StreamId} (h : s.streams[i].frame = none) : s.linkDropped i = s := by
  unfold State.linkDropped
  rw [h]

theorem linkDropped_unbound {s : State} {i : StreamId} {f : Frame} (h : s.streams[i].frame = some f) (hb : f.bound = none) :
    s.linkDropped i = s.withStream i (s.streams[i].unframed false) := by
  unfold State.linkDropped
  rw [h]
  dsimp only
  rw [hb]

theorem linkDropped_bound {s : State} {i : StreamId} {f : Frame} {c : ContextId} {k : Capture} (h : s.boundTo i f c k) :
    s.linkDropped i = s.frameLost i c k := by
  unfold State.linkDropped
  rw [h.frame]
  dsimp only
  rw [h.bound]
  dsimp only
  rw [h.capture]

/-! ## Completion writes -/

/-- A counted record below the threshold, and one that reaches it (R151). -/
theorem coalesce_reaches {s : State} {v : Setup} (hv : s.setup = some v) (h : v.threshold ≤ s.coalescingCount + 1) :
    s.coalesce = { s with coalescingCount := 0, coalescingTimer := none }.withStatusBits irqPosted := by
  unfold State.coalesce
  rw [hv]
  exact if_pos h

theorem coalesce_counts {s : State} {v : Setup} (hv : s.setup = some v) (h : s.coalescingCount + 1 < v.threshold) :
    s.coalesce = { s with
      coalescingCount := s.coalescingCount + 1
      coalescingTimer := if s.coalescingCount = 0 ∧ s.coalescingTimer = none ∧ v.coalescingTime ≠ 0
        then some s.timeBase else s.coalescingTimer } := by
  have hc : (decide (s.coalescingCount = 0) && s.coalescingTimer.isNone && decide (v.coalescingTime ≠ 0)) = true
      ↔ s.coalescingCount = 0 ∧ s.coalescingTimer = none ∧ v.coalescingTime ≠ 0 := by
    simp only [Bool.and_eq_true, decide_eq_true_eq, Option.isNone_iff_eq_none, and_assoc]
  unfold State.coalesce
  rw [hv]
  refine (if_neg (Nat.not_le.mpr h)).trans ?_
  rw [if_congr hc rfl rfl]

theorem foldl_laneOff_same {s : State} {l : List StreamId} (h : ∀ m ∈ l, s.streams[m].lane = .off) : l.foldl State.laneOff s = s := by
  induction l with
  | nil => rfl
  | cons m l ih =>
    rw [List.foldl_cons, State.laneOff_same (h m List.mem_cons_self)]
    exact ih fun k hk => h k (List.mem_cons_of_mem m hk)

/-- With the other lanes in OFF, all lanes going to OFF is the one lane going there (R59). -/
theorem lanesOff_single {s : State} {i : StreamId} (h : ∀ m : StreamId, m ≠ i → s.streams[m].lane = .off) :
    s.lanesOff = s.laneOff i := by
  obtain ⟨as, bs, e⟩ := List.append_of_mem (List.mem_finRange i)
  have hnd := List.nodup_finRange 4
  rw [e, List.nodup_append] at hnd
  obtain ⟨-, -, hne⟩ := hnd
  have hbefore : as.foldl State.laneOff s = s := foldl_laneOff_same fun m hm => h m (hne m hm i List.mem_cons_self)
  obtain ⟨hi, hkeep⟩ := State.laneOff_off s i
  have hall : ∀ m : StreamId, (s.laneOff i).streams[m].lane = .off := fun m => by
    by_cases hm : m = i
    · rw [hm, hi]
    · exact hkeep m (h m hm)
  unfold State.lanesOff
  rw [e, List.foldl_append, hbefore, List.foldl_cons, foldl_laneOff_same fun m _ => hall m]

theorem boundTo_withStream {s : State} {i : StreamId} {f : Frame} {c : ContextId} {k : Capture} (h : s.boundTo i f c k)
    {x : StreamState} (hf : x.frame = s.streams[i].frame) (hc : x.contexts = s.streams[i].contexts) :
    (s.withStream i x).boundTo i f c k := by
  obtain ⟨hframe, hbound, hcapture⟩ := h
  refine ⟨?_, hbound, ?_⟩
  · rw [State.withStream_get, hf, hframe]
  · rw [State.withStream_get, hc, hcapture]

/-- A fault with one lane in RUN, its frame bound, and the others in OFF (R51, R200). -/
theorem enterFaulted_bound {s : State} {i : StreamId} {f : Frame} {c : ContextId} {k : Capture} (hnf : s.device ≠ .faulted)
    (hb : s.boundTo i f c k) (hrun : s.streams[i].lane.state = .run) (hoff : ∀ m : StreamId, m ≠ i → s.streams[m].lane = .off)
    (cause : FaultCause) : s.enterFaulted cause
      = ((s.withStream i { s.streams[i] with lane := .off, relink := true }).frameLost i c k).withFault cause := by
  have hu : (s.withFault cause).boundTo i f c k := ⟨hb.frame, hb.bound, hb.capture⟩
  have hlost : (s.withFault cause).lanesOff
      = ((s.withFault cause).withStream i { s.streams[i] with lane := .off, relink := true }).frameLost i c k := by
    rw [lanesOff_single (s := s.withFault cause) hoff, laneOff_run (s := s.withFault cause) hrun]
    exact linkDropped_bound (boundTo_withStream hu rfl rfl)
  unfold State.enterFaulted
  rw [if_neg hnf]
  exact hlost

/-- Settles O19: the answers, each by its owner's rule. -/
theorem completionAnswered : Obligations.CompletionAnswered := by
  unfold Obligations.CompletionAnswered
  refine ⟨fun s j e hfor hd f hf => ?_, fun s => ⟨fun start v hstart hv => ?_, fun hn => ?_⟩⟩
  · have hack : exec (.completionWriteAck j) s = .next ((s.writeFreed j).acknowledge e).conclude :=
      congrArg Host.Outcome.next (respond_write_some hfor hd fun t ho => by rw [ho])
    have herr : ∀ code, exec (.completionWriteError j code) s = .next ((s.writeFreed j).enterFaulted .completionWrite).conclude :=
      fun code => congrArg Host.Outcome.next (respond_write_some hfor hd fun t ho => by rw [ho])
    have hcounted : s.holding[e].counted = true → (s.writeFreed j).acknowledge e = f.coalesce := fun hc => by
      rw [hf]
      exact if_pos hc
    have hplain : s.holding[e].counted = false → (s.writeFreed j).acknowledge e = f := fun hc => by
      rw [hf]
      exact if_neg (by rw [Bool.not_eq_true]; exact hc)
    refine ⟨fun hc => ?_, fun v hc hv => ⟨fun ht => ?_, fun ht => ?_⟩, fun code hnf => ?_, fun code i fr c k hnf hb hrun hoff => ?_⟩
    · rw [hack, hplain hc]
    · rw [hack, hcounted hc, coalesce_reaches (v := v) (by rw [hf]; exact hv) (by rw [hf]; exact ht)]
    · rw [hack, hcounted hc, coalesce_counts (v := v) (by rw [hf]; exact hv) (by rw [hf]; exact ht)]
      subst hf
      rfl
    · exact ⟨_, herr code, fault_concludes (s := s.writeFreed j) hnf .completionWrite⟩
    · rw [herr code, enterFaulted_bound (s := s.writeFreed j) hnf ⟨hb.frame, hb.bound, hb.capture⟩ hrun hoff]
      rfl
  · have hexec : exec .coalescingTimerRunsOut s = .next (if ranOut s.timeBase start v.coalescingTime then
        { s with coalescingCount := 0, coalescingTimer := none }.raiseIrq irqPosted else s) := by
      change Host.Outcome.next _ = _
      rw [hstart, hv]
    rw [hexec]
    unfold ranOut
    simp only [decide_eq_true_eq]
    rfl
  · change Host.Outcome.next _ = _
    rw [hn]

end Sys2Proof.Proofs
end

section
/-! CONFIGURE_STREAM (R162, R163): O22. -/
namespace Sys2Proof.Proofs
open Sys2Proof.Machine

/-! ## The lane enable -/

section
variable {s : State} {i : StreamId} {x : StreamState} (hx : s.streams[i] = x)
include hx

theorem setLaneEnable_same : s.setLaneEnable i x.laneEnable = s := by
  unfold State.setLaneEnable
  exact if_pos (congrArg StreamState.laneEnable hx)

/-- A lane whose enable goes on in a RUNNING device starts in SEARCH (R29, R59). -/
theorem setLaneEnable_on (hd : s.device = .running) (he : x.laneEnable = false) (hl : x.lane.state = .off) :
    s.setLaneEnable i true = s.withStream i { x with laneEnable := true, lane := ⟨.search, 0, 0, .none⟩ } := by
  subst hx
  unfold State.setLaneEnable
  rw [if_neg (by rw [he]; decide), if_pos rfl, State.onStream_eq]
  unfold State.laneOn
  rw [State.withStream_get]
  dsimp only
  rw [if_pos (by rw [show (s.withStream i _).device = .running from hd, hl]; rfl), State.onStream_eq, State.withStream_twice, State.withStream_get]
  rfl

/-- A lane whose enable goes off goes to OFF (R29, R59). -/
theorem setLaneEnable_off (he : x.laneEnable = true) :
    s.setLaneEnable i false = (s.withStream i { x with laneEnable := false }).laneOff i := by
  subst hx
  unfold State.setLaneEnable
  rw [if_neg (by rw [he]; decide), if_neg (by decide)]
  rfl

theorem setLaneEnable_off_idle (he : x.laneEnable = true) (hl : x.lane.state ≠ .run) :
    s.setLaneEnable i false = s.withStream i { x with laneEnable := false, lane := .off } := by
  rw [setLaneEnable_off hx he, laneOff_idle (by rw [State.withStream_get]; exact hl), State.withStream_twice, State.withStream_get]

theorem setLaneEnable_off_run (he : x.laneEnable = true) (hl : x.lane.state = .run) : s.setLaneEnable i false
    = (s.withStream i { x with laneEnable := false, lane := .off, relink := true }).linkDropped i := by
  rw [setLaneEnable_off hx he, laneOff_run (by rw [State.withStream_get]; exact hl), State.withStream_twice, State.withStream_get]

end

/-! ## The profile -/

theorem toNat_eq_zero_iff {w : Nat} (v : BitVec w) : v.toNat = 0 ↔ v = 0 := BitVec.toNat_inj (y := 0#w)

/-- The profiles that R162 accepts, field by field. -/
theorem profileOf_eq_some (f : ProfileFields) (p : Profile) : profileOf f = some p ↔
    p = {
      id := f.profileId.setWidth 4, lineLength := f.lineLength.toNat, frameHeight := f.frameHeight.toNat
      layout := if f.layout = 1 then .paired else .single, maxLag := f.maxLag.toNat, quota := f.quota.toNat
      mergeRatio := f.mergeRatio.toNat, knee := f.knee.toNat, settleFrames := f.settleFrames.toNat
      referenceRows := f.referenceRows.toNat, fixedBlack := f.fixedBlack, gapTimeout := f.gapTimeout.toNat }
    ∧ f.profileId.toNat ≤ 15 ∧ 8 ≤ f.lineLength.toNat ∧ f.lineLength.toNat ≤ 4096 ∧ f.lineLength.toNat % 8 = 0
    ∧ 1 ≤ f.frameHeight.toNat ∧ f.frameHeight.toNat ≤ 16384
    ∧ ((f.layout = 0 ∧ f.maxLag = 0 ∧ f.quota = 0)
      ∨ (f.layout = 1 ∧ 1 ≤ f.maxLag.toNat ∧ f.maxLag.toNat ≤ 64 ∧ f.maxLag.toNat < f.quota.toNat ∧ f.quota.toNat ≤ 128))
    ∧ 1 ≤ f.mergeRatio.toNat ∧ f.mergeRatio.toNat ≤ 64 ∧ 1 ≤ f.knee.toNat ∧ f.settleFrames.toNat ≤ 3
    ∧ f.referenceRows.toNat ≤ 16 ∧ 1 ≤ f.gapTimeout.toNat := by
  have hlayout : (f.layout.toNat ≤ 1 ∧ (if f.layout = 1 then
        decide (1 ≤ f.maxLag.toNat) && decide (f.maxLag.toNat ≤ 64) && decide (f.maxLag.toNat + 1 ≤ f.quota.toNat)
          && decide (f.quota.toNat ≤ 128)
        else f.maxLag.toNat == 0 && f.quota.toNat == 0) = true)
      ↔ (f.layout = 0 ∧ f.maxLag = 0 ∧ f.quota = 0)
      ∨ (f.layout = 1 ∧ 1 ≤ f.maxLag.toNat ∧ f.maxLag.toNat ≤ 64 ∧ f.maxLag.toNat < f.quota.toNat ∧ f.quota.toNat ≤ 128) := by
    by_cases h1 : f.layout = 1
    · rw [if_pos h1, h1]
      simp [and_assoc, Nat.succ_le_iff]
    · have h0 : f.layout.toNat ≤ 1 ↔ f.layout = 0 := by bv_omega
      rw [if_neg h1, h0, Bool.and_eq_true, beq_iff_eq, beq_iff_eq, toNat_eq_zero_iff, toNat_eq_zero_iff]
      exact ⟨.inl, fun h => h.resolve_right fun h' => h1 h'.1⟩
  have hpos : ∀ {w : Nat} (v : BitVec w), v ≠ 0 ↔ 1 ≤ v.toNat := fun v => by
    rw [Nat.one_le_iff_ne_zero, ne_eq, ne_eq, toNat_eq_zero_iff]
  unfold profileOf
  dsimp only
  rw [Option.ite_none_right_eq_some]
  simp only [Bool.and_eq_true, decide_eq_true_eq, beq_iff_eq, bne_iff_ne, Option.some.injEq, hpos]
  rw [and_comm, eq_comm, BitVec.ofNat_toNat, ← hlayout]
  simp only [and_assoc]

/-! ## The command -/

/-- An accepted profile (R28). -/
theorem takeProfile_eq (x : StreamState) (p : Profile) : x.takeProfile p =
    if x.active = none then { x with active := some p, settle := p.settleFrames } else { x with staged := some p } := by
  unfold StreamState.takeProfile
  cases x.active with
  | none => rfl
  | some a => exact (if_neg (Option.some_ne_none a)).symm

section
variable {s : State} {cmd : AdminCommand} {i : StreamId} {on : Bool} {f : ProfileFields}

theorem runConfigureStream_invalid (h : profileOf f = none) :
    (inExecution s cmd).runConfigureStream i on f = s.adminDone cmd.entry cmd.tag .invalid 0 := by
  unfold State.runConfigureStream
  rw [h]
  rfl

theorem runConfigureStream_full {p : Profile} (h : profileOf f = some p)
    (hq : 128 < max (quotaOf s.streams[i].active) (max p.quota (s.heldCount i)) + s.otherReservations i) :
    (inExecution s cmd).runConfigureStream i on f = s.adminDone cmd.entry cmd.tag .noResource 0 := by
  unfold State.runConfigureStream
  rw [h]
  refine (if_neg ?_).trans rfl
  rw [Bool.not_eq_true]
  exact decide_eq_false (Nat.not_le.mpr hq)

theorem runConfigureStream_taken {p : Profile} (h : profileOf f = some p)
    (hq : max (quotaOf s.streams[i].active) (max p.quota (s.heldCount i)) + s.otherReservations i ≤ 128) :
    (inExecution s cmd).runConfigureStream i on f
      = (((inExecution s cmd).withStream i (s.streams[i].takeProfile p)).setLaneEnable i on).complete .ok 0 := by
  unfold State.runConfigureStream
  rw [h]
  exact if_pos (decide_eq_true hq)

end

/-- Settles O22: the tests, and the lane enable case by case. -/
theorem configureStream : Obligations.ConfigureStream := by
  unfold Obligations.ConfigureStream
  refine ⟨fun s j e tag i on f h hd he => ?_, profileOf_eq_some⟩
  obtain ⟨cmd, rfl, rfl, hexec⟩ : ∃ cmd : AdminCommand, cmd.entry = e ∧ cmd.tag = tag
      ∧ exec (.configureStream tag i on f) s = .next ((inExecution (s.adminLanded j) cmd).runConfigureStream i on f).conclude := by
    refine ⟨⟨e, tag, some (.configureStream i on f)⟩, rfl, rfl, ?_⟩
    change Host.Outcome.next (s.adminCommand tag (.configureStream i on f)) = _
    rw [adminCommand_runs h hd he, State.run]
  refine ⟨fun hp => ?_, fun p hp => ⟨fun hq => ?_, fun hq x hx => ?_⟩⟩
  · rw [hexec, runConfigureStream_invalid hp]
  · rw [hexec, runConfigureStream_full (s := s.adminLanded j) hp hq]
  · have hlane : x.lane = s.streams[i].lane := by rw [hx]; split <;> rfl
    have henable : x.laneEnable = s.streams[i].laneEnable := by rw [hx]; split <;> rfl
    have hframe : x.frame = s.streams[i].frame := by rw [hx]; split <;> rfl
    have hcontexts : x.contexts = s.streams[i].contexts := by rw [hx]; split <;> rfl
    rw [← takeProfile_eq] at hx
    have hexec : exec (.configureStream cmd.tag i on f) s = .next
        ((((inExecution (s.adminLanded j) cmd).withStream i x).setLaneEnable i on).complete
          .ok 0).conclude := by
      rw [hexec, runConfigureStream_taken (s := s.adminLanded j) hp hq, hx]
      rfl
    have hdev : (s.adminLanded j).device = .running := hd
    generalize s.adminLanded j = v at hexec hdev
    have hget := State.withStream_get (inExecution v cmd) i x
    have hdone : ∀ y : StreamState, (((inExecution v cmd).withStream i x).withStream i y).complete
        .ok 0 = (v.withStream i y).adminDone cmd.entry cmd.tag .ok 0 := fun y => by rw [State.withStream_twice]; rfl
    rw [hexec]
    refine ⟨fun hon => ?_, fun hon he hl => ?_, fun hon he hl => ?_, fun hon he hl y hy => ?_⟩
    · rw [hon, ← henable, setLaneEnable_same hget]
      rfl
    · rw [hon, setLaneEnable_on hget hdev (henable.trans he) (by rw [hlane, hl]), hdone]
    · rw [hon, setLaneEnable_off_idle hget (henable.trans he) (by rw [hlane]; exact hl), hdone]
    · rw [hon, setLaneEnable_off_run hget (henable.trans he) (by rw [hlane, hl]), ← hy, State.withStream_twice]
      have hgety := State.withStream_get (inExecution v cmd) i y
      have hframey : y.frame = s.streams[i].frame := by rw [hy]; exact hframe
      have hcontextsy : y.contexts = s.streams[i].contexts := by rw [hy]; exact hcontexts
      refine ⟨fun hf => ?_, fun fr hf hn => ?_, fun fr c k hbound => ?_⟩
      · rw [linkDropped_none (by rw [hgety, hframey, hf])]
        rfl
      · rw [linkDropped_unbound (by rw [hgety, hframey, hf]) hn, State.withStream_twice, hgety]
        rfl
      · rw [linkDropped_bound (f := fr) (c := c) (k := k) ⟨by rw [hgety, hframey]; exact hbound.frame, hbound.bound,
          by rw [hgety, hcontextsy]; exact hbound.capture⟩]
        rfl

end Sys2Proof.Proofs
end

section
/-! LOAD_DEFECTS (R164 to R167, R213): O23, O24, O25. -/
namespace Sys2Proof.Proofs
open Sys2Proof.Machine

/-! ## The command and its bursts -/

/-- A load's arguments are judged (R164). -/
theorem runLoadDefects_eq {s : State} {cmd : AdminCommand} (i : StreamId) (list : Addr) (count : Nat) :
    (inExecution s cmd).runLoadDefects i list count =
      if count ≤ 1024 ∧ list.toNat % 256 = 0 ∧ list.toNat + 256 * ((count * 4 + 255) / 256) ≤ 2 ^ 64 then
        if count = 0 then (s.withStream i { s.streams[i] with stagedDefects := some [] }).adminDone cmd.entry cmd.tag .ok 0
        else { s with admin := { s.admin with
          executing := some cmd
          load := some ⟨i, list, count, (count * 4 + 255) / 256, 0, 0, 0, false, []⟩ } }
      else s.adminDone cmd.entry cmd.tag .invalid 0 := by
  unfold State.runLoadDefects
  simp only [Bool.and_eq_true, decide_eq_true_eq, beq_iff_eq, and_assoc]
  rfl

/-- Settles O23: the arguments' test, and what the command begins. -/
theorem loadDefects : Obligations.LoadDefects := by
  unfold Obligations.LoadDefects
  intro s j e tag i list count h hd he
  change Host.Outcome.next (s.adminCommand tag (.loadDefects i list count.toNat)) = _
  rw [adminCommand_runs h hd he, State.run, runLoadDefects_eq]
  split
  · simp only [toNat_eq_zero_iff]
    split <;> rfl
  · rfl

theorem mayBurst_iff (s : State) : s.mayBurst = true ↔ (∃ l, s.admin.load = some l ∧ l.issued < l.bursts
    ∧ l.outstanding < 4 ∧ l.failed = false) ∧ (s.device = .running ∨ s.device = .stopping) ∧ (lowestFree s.reads).isSome = true := by
  unfold State.mayBurst
  cases s.admin.load with
  | none => simp
  | some l =>
    simp only [Bool.and_eq_true, decide_eq_true_eq, Bool.not_eq_true', Bool.or_eq_true, and_assoc, Option.some.injEq, exists_eq_left']
    rfl

/-- Settles O24: the test of the issue, and the burst that it issues. -/
theorem defectBurstIssue : Obligations.DefectBurstIssue := by
  unfold Obligations.DefectBurstIssue
  intro s
  have hexec : exec .defectBurstIssue s = .next (if s.mayBurst then s.issueDefectBurst else s) := rfl
  refine ⟨fun l j hl hi ho hf hd hj => ?_, fun hn => ?_⟩
  · have hmay : s.mayBurst = true := (mayBurst_iff s).mpr ⟨⟨l, hl, hi, ho, hf⟩, hd, by rw [lowestFree_eq_some hj]; rfl⟩
    have hissue : s.issueDefectBurst = { s with
        admin := { s.admin with load := some { l with issued := l.issued + 1, outstanding := l.outstanding + 1 } } }.issueRead
          .defectBurst (.load l.issued) (l.list + BitVec.ofNat 64 (256 * l.issued)) 256 s.responseTimeout := by
      unfold State.issueDefectBurst State.onLoad
      rw [hl]
      rfl
    rw [hexec, if_pos hmay, hissue]
    exact congrArg Host.Outcome.next (issueRead_next (s := { s with
      admin := { s.admin with load := some { l with issued := l.issued + 1, outstanding := l.outstanding + 1 } } }) hj ..)
  · rw [hexec, if_neg]
    rw [mayBurst_iff]
    rintro ⟨⟨l, hl, hi, ho, hf⟩, hd, hfree⟩
    rcases hn with hn | ⟨hr, hs⟩ | hn
    · rcases hn l hl with hn | hn | hn
      · omega
      · omega
      · rw [hn] at hf
        cases hf
    · rcases hd with hd | hd
      · exact hr hd
      · exact hs hd
    · rw [lowestFree_eq_none hn] at hfree
      cases hfree

/-! ## Answers -/

section
variable {s : State} {l : Load} {cmd : AdminCommand} (hl : s.admin.load = some l)
include hl

theorem onLoad_eq (m : Load) : s.onLoad (fun _ => m) = { s with admin := { s.admin with load := some m } } := by
  unfold State.onLoad
  rw [hl]
  rfl

section
variable (b : Nat) (d : List Byte) {m : Load} (hf : l.failed = false) (hm : m = { l with
  outstanding := l.outstanding - 1, landed := l.landed + 1, buffer := l.buffer ++ [(b, d)] })
include hf hm

theorem burstLands_places (hn : m.landed ≠ l.bursts) : s.burstLands b d = { s with admin := { s.admin with load := some m } } := by
  rw [← onLoad_eq hl]
  subst hm
  unfold State.burstLands
  rw [hl]
  exact (if_neg (by rw [hf]; decide)).trans (if_neg hn)

theorem burstLands_last (hn : m.landed = l.bursts) :
    s.burstLands b d = State.validateLoad { s with admin := { s.admin with load := some m } } m := by
  rw [← onLoad_eq hl]
  subst hm
  unfold State.burstLands
  rw [hl]
  exact (if_neg (by rw [hf]; decide)).trans (if_pos hn)

end

/-- A load that has failed completes once no read is outstanding (R167). -/
theorem load_fails (he : s.admin.executing = some cmd) :
    s.burstFails = (if l.outstanding ≤ 1 then s.adminDone cmd.entry cmd.tag .readFault 0
      else { s with admin := { s.admin with load := some { l with outstanding := l.outstanding - 1, failed := true } } })
    ∧ (l.failed = true → ∀ b d, s.burstLands b d = s.burstFails) := by
  have hfails : s.burstFails = if l.outstanding - 1 = 0 then
      (s.onLoad fun _ => { l with outstanding := l.outstanding - 1, failed := true }).complete .readFault 0
      else s.onLoad fun _ => { l with outstanding := l.outstanding - 1, failed := true } := by
    unfold State.burstFails
    rw [hl]
  refine ⟨?_, fun hf b d => ?_⟩
  · rw [hfails, onLoad_eq hl, complete_eq (s := { s with admin := { s.admin with
      load := some { l with outstanding := l.outstanding - 1, failed := true } } }) he]
    exact if_congr (by omega) rfl rfl
  · have hsame : ({ l with outstanding := l.outstanding - 1 } : Load)
        = { l with outstanding := l.outstanding - 1, failed := true } := by rw [← hf]
    rw [hfails]
    unfold State.burstLands
    rw [hl]
    dsimp only
    rw [hf, if_pos rfl]

end

/-- A whole list is validated (R166). -/
theorem validateLoad_eq {s : State} {cmd : AdminCommand} (he : s.admin.executing = some cmd) {m : Load} {i : StreamId}
    {count bursts : Nat} (hi : m.stream = i) (hc : m.count = count) (hb : m.bursts = bursts) :
    (∀ t, readDefects m.bytes count bursts = some t → s.validateLoad m
      = (s.withStream i { s.streams[i] with stagedDefects := some t }).adminDone cmd.entry cmd.tag .ok (BitVec.ofNat 32 count))
    ∧ (readDefects m.bytes count bursts = none → s.validateLoad m = s.adminDone cmd.entry cmd.tag .tableError 0) := by
  subst hi hc hb
  refine ⟨fun t ht => ?_, fun hn => ?_⟩
  · unfold State.validateLoad
    rw [ht]
    exact complete_eq (s := s.stageDefects m.stream t) he .ok _
  · unfold State.validateLoad
    rw [hn]
    exact complete_eq he .tableError 0

/-! ## The defect list -/

theorem methodOf_eq_some (v : Nat) (m : DefectMethod) : methodOf v = some m ↔ v = [DefectMethod.average, .left, .right].idxOf m := by
  match v with
  | 0 => cases m <;> decide
  | 1 => cases m <;> decide
  | 2 => cases m <;> decide
  | n + 3 =>
    have : [DefectMethod.average, .left, .right].idxOf m < 3 := by cases m <;> decide
    exact ⟨fun h => (nomatch h), fun h => by omega⟩

/-- An entry of a list whose own fields are good (R166, R213). -/
def GoodDefect (r : List Byte) (e : Nat) (d : DefectEntry) : Prop :=
  d.row = leField r (4 * e) 2 ∧ d.row ≤ 16383 ∧ d.column = leField r (4 * e + 2) 2 % 8192 ∧ d.column ≤ 4095
  ∧ leField r (4 * e + 2) 2 / 8192 = [DefectMethod.average, .left, .right].idxOf d.method

theorem defectAt_eq_some (r : List Byte) (e : Nat) (d : DefectEntry) : defectAt r e = some d ↔ GoodDefect r e d := by
  have hidx : ∀ m : DefectMethod, [DefectMethod.average, .left, .right].idxOf m < 3 := fun m => by cases m <;> decide
  unfold defectAt GoodDefect
  dsimp only
  split
  · next m hm =>
    rw [methodOf_eq_some] at hm
    have := hidx m
    rw [Option.ite_none_right_eq_some]
    simp only [Bool.and_eq_true, decide_eq_true_eq, beq_iff_eq, Option.some.injEq]
    constructor
    · rintro ⟨⟨⟨hr, hc⟩, hz⟩, rfl⟩
      exact ⟨rfl, hr, rfl, hc, by dsimp only; omega⟩
    · rintro ⟨hr, hr', hc, hc', hw⟩
      have := hidx d.method
      have hmd : methodOf (leField r (4 * e + 2) 2 / 8192 % 4) = some d.method := (methodOf_eq_some _ _).mpr (by omega)
      have hmm : methodOf (leField r (4 * e + 2) 2 / 8192 % 4) = some m := (methodOf_eq_some _ _).mpr hm
      obtain rfl := Option.some.inj (hmd.symm.trans hmm)
      refine ⟨⟨⟨hr ▸ hr', hc ▸ hc'⟩, by omega⟩, ?_⟩
      rw [← hr, ← hc]
  · next hn =>
    refine iff_of_false (by simp) ?_
    rintro ⟨-, -, -, -, hw⟩
    have := hidx d.method
    rw [(methodOf_eq_some _ d.method).mpr (by omega)] at hn
    cases hn

theorem before_iff (a d : DefectEntry) : a.before d = true ↔ a.row < d.row ∨ (a.row = d.row ∧ a.column < d.column) := by
  unfold DefectEntry.before
  rw [Bool.or_eq_true, Bool.and_eq_true, decide_eq_true_eq, decide_eq_true_eq, beq_iff_eq]

/-- The entries of a list from `e` on, each good and strictly after the one before it, the first after `last` (R166). -/
theorem defectsFrom_eq_some (r : List Byte) (n e : Nat) (last : Option DefectEntry) (t : List DefectEntry) :
    defectsFrom r n e last = some t ↔ t.length = n ∧ (∀ k d, t[k]? = some d → GoodDefect r (e + k) d)
      ∧ (∀ d, t[0]? = some d → last.all (·.before d) = true)
      ∧ ∀ (k : Nat) a d, t[k]? = some a → t[k + 1]? = some d → a.before d = true := by
  induction n generalizing e last t with
  | zero =>
    rw [defectsFrom, Option.some.injEq]
    constructor
    · rintro rfl
      exact ⟨rfl, fun k d h => by simp at h, fun d h => by simp at h, fun k a d h => by simp at h⟩
    · rintro ⟨h, -⟩
      exact (List.length_eq_zero_iff.mp h).symm
  | succ n ih =>
    cases t with
    | nil =>
      refine iff_of_false ?_ fun h => by cases h.1
      unfold defectsFrom
      split
      · rw [Option.ite_none_right_eq_some, Option.map_eq_some_iff]
        rintro ⟨-, u, -, hu⟩
        cases hu
      · exact fun h => by cases h
    | cons d t =>
      have hcons : defectsFrom r (n + 1) e last = some (d :: t) ↔
          GoodDefect r e d ∧ last.all (·.before d) = true ∧ defectsFrom r n (e + 1) (some d) = some t := by
        rw [← defectAt_eq_some, defectsFrom]
        cases hd : defectAt r e with
        | none => simp
        | some x =>
          dsimp only
          rw [Option.ite_none_right_eq_some, Option.map_eq_some_iff]
          constructor
          · rintro ⟨hl, u, hu, hx⟩
            obtain ⟨rfl, rfl⟩ := List.cons.inj hx
            exact ⟨rfl, hl, hu⟩
          · rintro ⟨hx, hl, hu⟩
            obtain rfl := Option.some.inj hx
            exact ⟨hl, t, hu, rfl⟩
      rw [hcons, ih]
      constructor
      · rintro ⟨hg, hl, hlen, hgood, hfirst, hnext⟩
        refine ⟨by rw [List.length_cons, hlen], fun k x hk => ?_, fun x hx => ?_, fun k a x ha hx => ?_⟩
        · cases k with
          | zero => exact Option.some.inj hk ▸ hg
          | succ k =>
            have := hgood k x hk
            rwa [show e + 1 + k = e + (k + 1) by omega] at this
        · exact Option.some.inj hx ▸ hl
        · cases k with
          | zero =>
            obtain rfl := Option.some.inj ha
            exact hfirst x hx
          | succ k => exact hnext k a x ha hx
      · rintro ⟨hlen, hgood, hfirst, hnext⟩
        refine ⟨hgood 0 d rfl, hfirst d rfl, Nat.succ.inj hlen, fun k x hk => ?_, fun x hx => hnext 0 d x rfl hx,
          fun k a x ha hx => hnext (k + 1) a x ha hx⟩
        have := hgood (k + 1) x hk
        rwa [show e + (k + 1) = e + 1 + k by omega] at this

theorem readDefects_eq_some (r : List Byte) (count bursts : Nat) (t : List DefectEntry) : readDefects r count bursts = some t ↔
    t.length = count ∧ (∀ (k : Nat) d, t[k]? = some d → GoodDefect r k d)
    ∧ (∀ (k : Nat) a d, t[k]? = some a → t[k + 1]? = some d → a.row < d.row ∨ (a.row = d.row ∧ a.column < d.column))
    ∧ ∀ k, 4 * count ≤ k → k < 256 * bursts → byteAt r k = 0 := by
  unfold readDefects
  rw [Option.ite_none_right_eq_some, zeroAt_iff, defectsFrom_eq_some]
  simp only [before_iff, Nat.zero_add]
  constructor
  · rintro ⟨hz, hlen, hgood, -, hnext⟩
    exact ⟨hlen, hgood, hnext, hz⟩
  · rintro ⟨hlen, hgood, hnext, hz⟩
    exact ⟨hz, hlen, hgood, fun _ _ => rfl, hnext⟩

/-! ## The load buffer -/

theorem length_burstBytes (d : List Byte) : (burstBytes d).length = 256 := by
  unfold burstBytes
  rw [List.length_take, List.length_append, List.length_replicate]
  omega

theorem byteAt_burstBytes (d : List Byte) {k : Nat} (h : k < 256) : byteAt (burstBytes d) k = byteAt d k := by
  have he : (burstBytes d)[k]?.getD 0 = d[k]?.getD 0 := by
    unfold burstBytes
    rw [List.getElem?_take_of_lt h, List.getElem?_append]
    split
    · rfl
    · next hk =>
      rw [List.getElem?_eq_none (l := d) (by omega), List.getElem?_replicate]
      split <;> rfl
  unfold byteAt
  rw [List.getD_eq_getElem?_getD, List.getD_eq_getElem?_getD, he]

/-- One element of a row of blocks of one length. -/
theorem getElem?_flatMap_range {α : Type} {m : Nat} {f : Nat → List α} (hf : ∀ j, (f j).length = m) {n j k : Nat} (hj : j < n)
    (hk : k < m) : ((List.range n).flatMap f)[m * j + k]? = (f j)[k]? := by
  have hlen : ∀ n, ((List.range n).flatMap f).length = m * n := by
    intro n
    induction n with
    | zero => rfl
    | succ n ih => simp [List.range_succ, ih, hf, Nat.mul_succ]
  induction n with
  | zero => exact absurd hj (Nat.not_lt_zero j)
  | succ n ih =>
    rw [List.range_succ, List.flatMap_append]
    by_cases hlt : j < n
    · have : m * j + m ≤ m * n := by
        rw [← Nat.mul_succ]
        exact Nat.mul_le_mul_left m hlt
      rw [List.getElem?_append_left (by rw [hlen]; omega), ih hlt]
    · obtain rfl : j = n := by omega
      rw [List.getElem?_append_right (by rw [hlen]; omega), hlen, Nat.add_sub_cancel_left, List.flatMap_singleton]

theorem byteAt_loadBytes {l : Load} {j k : Nat} {d : List Byte} (h : l.buffer.find? (fun b => b.1 = j) = some (j, d))
    (hj : j < l.bursts) (hk : k < 256) : byteAt l.bytes (256 * j + k) = byteAt d k := by
  rw [← byteAt_burstBytes d hk]
  unfold byteAt Load.bytes
  rw [List.getD_eq_getElem?_getD, List.getD_eq_getElem?_getD, getElem?_flatMap_range (fun _ => length_burstBytes _) hj hk, h]
  rfl

theorem exec_defectBurstLands {s : State} {j : Fin Config.readEntries} {b : Nat} {x : Beat} {d : List Byte}
    (hfor : s.readingFor j (.load b)) (hd : s.device ≠ .resetting) (hx : s.landsWith j x d) :
    exec (.defectBurstLands j x) s = .next ((s.readFreed j).burstLands b d).conclude :=
  congrArg Host.Outcome.next (takeBeat_lands hfor hd hx fun t ho => by rw [ho])

/-- Settles O25: the answers, the validity of a list entry by entry, and the buffer burst by burst. -/
theorem defectBurstAnswered : Obligations.DefectBurstAnswered := by
  unfold Obligations.DefectBurstAnswered
  refine ⟨fun s j b x l cmd hfor hd hl he => ⟨fun d m hx hf hm => ⟨fun hn => ?_, fun hn => ?_⟩, fun c hc => ?_⟩,
    readDefects_eq_some, fun l j k d => byteAt_loadBytes⟩
  · rw [exec_defectBurstLands hfor hd hx, burstLands_places (s := s.readFreed j) hl b d hf hm hn]
    rfl
  · obtain ⟨hvalid, hbad⟩ := validateLoad_eq (s := { s.readFreed j with admin := { s.admin with load := some m } }) he
      (m := m) (i := l.stream) (count := l.count) (bursts := l.bursts) (by rw [hm]) (by rw [hm]) (by rw [hm])
    rw [exec_defectBurstLands hfor hd hx, burstLands_last (s := s.readFreed j) hl b d hf hm hn]
    split
    · next t ht => exact congrArg (fun u : State => Host.Outcome.next u.conclude) (hvalid t ht)
    · next hnone => exact congrArg (fun u : State => Host.Outcome.next u.conclude) (hbad hnone)
  · obtain ⟨hfails, hlands⟩ := load_fails (s := s.readFreed j) hl he
    have hexec : exec c s = .next (s.readFreed j).burstFails.conclude := by
      rcases hc with ⟨rfl, hx⟩ | ⟨rfl, ⟨d, hx⟩, hf⟩
      · exact congrArg Host.Outcome.next (takeBeat_fails hfor hd hx fun t ho => by rw [ho])
      · rw [exec_defectBurstLands hfor hd hx, hlands hf]
    rw [hexec, hfails]
    split <;> rfl

end Sys2Proof.Proofs
end

section
/-! ABORT_STREAM, OPEN_GROUP and CLOSE_GROUP (R168, R169, R171, R172): O26, O27. -/
namespace Sys2Proof.Proofs
open Sys2Proof.Machine

/-! ## ABORT_STREAM -/

/-- The state in which an ABORT_STREAM has begun: its ring HALTED, and the abort in execution (R168). -/
def abortBegun (s : State) (cmd : AdminCommand) (i : StreamId) : State :=
  { s with
    rings := s.rings.set (ringOfStream i) { s.rings[ringOfStream i] with state := .halted }
    admin := { s.admin with executing := some cmd, abort := some ⟨i, s.streams[i].prefetch.length⟩ } }

section
variable {s : State} {cmd : AdminCommand} {i : StreamId}

theorem runAbortStream_absent (h : s.rings[ringOfStream i].state = .absent) :
    (inExecution s cmd).runAbortStream i = s.adminDone cmd.entry cmd.tag .invalid 0 :=
  (if_pos h).trans rfl

theorem runAbortStream_aborts (h : s.rings[ringOfStream i].state ≠ .absent) :
    (inExecution s cmd).runAbortStream i = ((abortBegun s cmd i).streamAborted i).breakGroupsOf i := by
  rw [← State.abortStream_eq]
  exact if_neg h

/-- What follows an ABORT_STREAM in its event, with no command waiting (R168). -/
theorem conclude_abortStream (hd : s.device = .running) (hw : s.admin.waiting = none) (t : State)
    (ht : t = (((abortBegun s cmd i).streamAborted i).breakGroupsOf i).conclude) :
    t.outside = s.outside
    ∧ t.rings = s.rings.set (ringOfStream i) { s.rings[ringOfStream i] with state := .halted }
    ∧ t.streams[i].prefetch = [] ∧ t.streams[i].deadline = none
    ∧ (∀ (c : ContextId) k, t.streams[i].contexts[c] = some k → k.phase = .flushing ∧ k.causes.aborted = true)
    ∧ (∀ l ∈ t.streams[i].buffer, s.streams[i].contexts[l.context] = none)
    ∧ (∀ h ∈ t.pairing, h.stream = i → s.streams[i].contexts[h.context] = none)
    ∧ ∀ g : GroupId, t.groups[g].mask[i] = true → t.groups[g].state ≠ .opened ∧ t.groups[g].state ≠ .fixed := by
  have hheld : ∀ c, heldAt i c ((abortBegun s cmd i).streamAborted i) = heldAt i c s := heldAt_streamAborted _ i i
  have hclear : Cleared (fun c => heldAt i c s = false) i (((abortBegun s cmd i).streamAborted i).breakGroupsOf i) := by
    have h := selfCleared_streamAborted (abortBegun s cmd i) i
    unfold SelfCleared at h
    simp only [hheld] at h
    exact h.breakGroupsOf i
  have hout : (((abortBegun s cmd i).streamAborted i).breakGroupsOf i).outside = s.outside := by
    rw [State.outside_quiet.quiet.breakGroupsOf, ← State.abortStream_eq, State.outside_quiet.quiet.abortCaptures,
      State.outside_quiet.quiet.abortList]
    rfl
  have hrings : (((abortBegun s cmd i).streamAborted i).breakGroupsOf i).shell = (abortBegun s cmd i).shell := by
    rw [State.shell_quiet.breakGroupsOf, ← State.abortStream_eq, State.shell_quiet.abortCaptures, State.shell_quiet.abortList]
  have hrest := atRest_breakGroupsOf ((abortBegun s cmd i).streamAborted i) i
  have hwait : (((abortBegun s cmd i).streamAborted i).breakGroupsOf i).admin.waiting = none := by
    rw [admin_heads.breakGroupsOf, streamAborted_admin]
    exact hw
  generalize (((abortBegun s cmd i).streamAborted i).breakGroupsOf i) = u at hclear hout hrings hrest hwait ht
  have hdev : u.device = .running := (congrArg State.device hout :).trans hd
  rw [conclude_of_running hdev hwait] at ht
  subst ht
  have hfinal := hclear.drain.drain.enqueue
  have hfree : ∀ c : ContextId, heldAt i c s = false → s.streams[i].contexts[c] = none := fun c hc => by
    rwa [heldAt, Option.isSome_eq_false_iff, Option.isNone_iff_eq_none] at hc
  refine ⟨(outside_drained u).trans hout, ?_, hfinal.list.1, hfinal.list.2, hfinal.contexts, fun l hl => hfree _ (hfinal.buffer l hl),
    fun h hh hi => hfree _ (hfinal.pairing h hh hi), ?_⟩
  · have h : u.drain.drain.shell = (abortBegun s cmd i).shell := by rw [State.shell_quiet.drain, State.shell_quiet.drain, hrings]
    generalize u.drain.drain = v at h
    exact (congrArg State.rings h :)
  · exact ((hrest.calmer (calmer_drain u)).calmer (calmer_drain u.drain)).calmer (calmer_enqueue _)

end

theorem abortCanEnd_iff (s : State) : s.abortCanEnd = true ↔
    ∃ a, s.admin.abort = some a ∧ ∀ c : ContextId, s.streams[a.stream].contexts[c] = none := by
  unfold State.abortCanEnd
  rw [Option.any_eq_true]
  refine exists_congr fun a => and_congr Iff.rfl ?_
  rw [Bool.and_eq_true, Option.isNone_iff_eq_none, Option.isNone_iff_eq_none]
  exact (Fin.forall_fin_two (p := fun c => s.streams[a.stream].contexts[c] = none)).symm

/-- Settles O26: the two beginnings, what follows in the event, and the completion. -/
theorem abortStream : Obligations.AbortStream := by
  unfold Obligations.AbortStream
  refine ⟨fun s j e tag i h hd he => ?_, fun s => ⟨fun a cmd ha he hfree => ?_, fun hn => ?_⟩⟩
  · have hexec : exec (.abortStream tag i) s = .next
        ((inExecution (s.adminLanded j) ⟨e, tag, some (.abortStream i)⟩).runAbortStream i).conclude := by
      change Host.Outcome.next (s.adminCommand tag (.abortStream i)) = _
      rw [adminCommand_runs h hd he, State.run]
    rw [hexec, ← adminLanded_ring s j i]
    refine ⟨fun ha => ?_, fun hn hw => ?_, fun hn u hu => ?_⟩
    · rw [runAbortStream_absent ha]
    · rw [runAbortStream_aborts hn]
      exact ⟨_, rfl, conclude_abortStream (s := s.adminLanded j) hd hw _ rfl⟩
    · rw [runAbortStream_aborts hn, hu]
      rfl
  · change Host.Outcome.next (if s.abortCanEnd then s.abortEnds.conclude else s) = _
    have hends : s.abortCanEnd = true := (abortCanEnd_iff s).mpr ⟨a, ha, hfree⟩
    have hdone : s.abortEnds = s.complete .ok (BitVec.ofNat 32 a.count) := by
      have hc : s.abortCanEnd = ((s.capture? a.stream 0).isNone && (s.capture? a.stream 1).isNone) := by
        unfold State.abortCanEnd
        rw [ha]
        rfl
      unfold State.abortEnds
      rw [ha]
      exact if_pos (hc ▸ hends)
    rw [if_pos hends, hdone, complete_eq he]
  · change Host.Outcome.next (if s.abortCanEnd then s.abortEnds.conclude else s) = _
    rw [if_neg]
    rw [abortCanEnd_iff]
    rintro ⟨a, ha, hfree⟩
    obtain ⟨c, hc⟩ := hn a ha
    exact hc (hfree c)

/-! ## OPEN_GROUP and CLOSE_GROUP -/

theorem maskStreams_get (mask : Byte) (i : StreamId) : (maskStreams mask)[i] = mask.getLsbD i := by
  match i with
  | 0 => rfl
  | 1 => rfl
  | 2 => rfl
  | 3 => rfl

/-- Two members of a list with no repetition pass a test just when two different ones do. -/
theorem two_le_length_filter {α : Type} [DecidableEq α] {l : List α} (hl : l.Nodup) (p : α → Bool) :
    2 ≤ (l.filter p).length ↔ ∃ a b, a ≠ b ∧ (a ∈ l ∧ p a = true) ∧ (b ∈ l ∧ p b = true) := by
  rw [← List.toFinset_card_of_nodup (hl.filter p), Nat.succ_le_iff, Finset.one_lt_card]
  simp only [List.mem_toFinset, List.mem_filter]
  constructor
  · rintro ⟨a, ha, b, hb, hne⟩
    exact ⟨a, b, hne, ha, hb⟩
  · rintro ⟨a, b, hne, ha, hb⟩
    exact ⟨a, ha, b, hb, hne⟩

theorem maskGood_iff (mask : Byte) : maskGood mask = true ↔
    mask.toNat < 16 ∧ ∃ i k : StreamId, i ≠ k ∧ mask.getLsbD i = true ∧ mask.getLsbD k = true := by
  unfold maskGood
  rw [Bool.and_eq_true, decide_eq_true_eq, decide_eq_true_eq, two_le_length_filter (List.nodup_finRange 4)]
  simp only [List.mem_finRange, true_and, maskStreams_get]

theorem ringsActive_iff (s : State) (mask : Byte) : s.ringsActive mask = true ↔
    ∀ i : StreamId, mask.getLsbD i = true → s.rings[ringOfStream i].state = .active := by
  unfold State.ringsActive
  rw [List.all_eq_true]
  simp only [List.mem_finRange, forall_const, maskStreams_get, Bool.or_eq_true, Bool.not_eq_true', decide_eq_true_eq]
  refine forall_congr' fun i => ?_
  rw [← Bool.not_eq_true]
  exact Decidable.imp_iff_not_or.symm

/-! ### A break does not look at the Admin Unit -/

/-- The state with another Admin Unit, all else unchanged. -/
def withAdmin (s : State) (a : AdminUnit) : State := { s with admin := a }

theorem register_withAdmin (s : State) (a : AdminUnit) (i : StreamId) (q : Request) :
    (withAdmin s a).register i q = (withAdmin (s.register i q).1 a, (s.register i q).2) := by
  rcases register_cases s i q with hg | ⟨g, hg, h | ⟨hm, hp, h | h⟩⟩
  · rw [register_ungrouped hg, register_ungrouped hg]
  · rw [register_invalid hg rfl h, register_invalid (s := withAdmin s a) hg rfl h]
    rfl
  · rw [register_broken hg rfl hm hp h, register_broken (s := withAdmin s a) hg rfl hm hp h]
    rfl
  · rw [register_registers hg rfl hm hp h, register_registers (s := withAdmin s a) hg rfl hm hp h]
    rfl

theorem adoptHead_withAdmin (a : AdminUnit) (i : StreamId) (l : List Request) (s : State) :
    adoptHead i l (withAdmin s a) = withAdmin (adoptHead i l s) a := by
  induction l generalizing s with
  | nil => rfl
  | cons q l ih =>
    cases hk : q.kind with
    | mark =>
      rw [adoptHead_mark hk, adoptHead_mark hk]
      exact ih (s.entryReady q.entry (q.unboundReport .ok) q.notify)
    | capture =>
      have hreg := register_withAdmin s a i q
      cases h : s.register i q with
      | mk u stays =>
        rw [h] at hreg
        cases stays with
        | true =>
          rw [adoptHead_waits hk hreg, adoptHead_waits hk h]
          rfl
        | false =>
          rw [adoptHead_refused hk hreg, adoptHead_refused hk h]
          exact ih u

theorem resolveGroup_withAdmin (s : State) (a : AdminUnit) (g : GroupId) :
    (withAdmin s a).resolveGroup g = withAdmin (s.resolveGroup g) a := by
  by_cases h : s.groups[g].resolves = true
  · rw [resolveGroup_eq rfl h, resolveGroup_eq (s := withAdmin s a) rfl h]
    rfl
  · have h : s.groups[g].resolves = false := by simpa using h
    rw [State.resolveGroup_same h, State.resolveGroup_same (s := withAdmin s a) h]

theorem breakGroup_withAdmin (s : State) (a : AdminUnit) (g : GroupId) :
    (withAdmin s a).breakGroup g = withAdmin (s.breakGroup g) a := by
  have heads : ∀ (l : List StreamId) (u : State), l.foldl (fun u k => adoptHead k u.streams[k].prefetch u) (withAdmin u a)
      = withAdmin (l.foldl (fun u k => adoptHead k u.streams[k].prefetch u) u) a := by
    intro l
    induction l with
    | nil => exact fun _ => rfl
    | cons k l ih =>
      intro u
      rw [List.foldl_cons, List.foldl_cons, ← ih, ← adoptHead_withAdmin]
      rfl
  by_cases h : s.groups[g].state = .free ∨ s.groups[g].state = .broken
  · rw [breakGroup_same h, breakGroup_same (s := withAdmin s a) h]
  · have hs : s.groups[g].state = .opened ∨ s.groups[g].state = .fixed := by
      cases hc : s.groups[g].state <;> simp_all
    rw [breakGroup_eq rfl hs, breakGroup_eq (s := withAdmin s a) rfl hs, ← heads, ← resolveGroup_withAdmin]
    rfl

section
variable {s : State} {cmd : AdminCommand} (g : GroupId)

/-- A group is opened (R171, R114). -/
theorem runOpenGroup_eq (mask : Byte) (timeout : Half) : (inExecution s cmd).runOpenGroup g mask timeout.toNat =
    if s.groups[g].state ≠ .free then s.adminDone cmd.entry cmd.tag .busy 0
    else if mask.toNat < 16 ∧ (∃ i k : StreamId, i ≠ k ∧ mask.getLsbD i = true ∧ mask.getLsbD k = true)
        ∧ (∀ i : StreamId, mask.getLsbD i = true → s.rings[ringOfStream i].state = .active) then
      { s with groups := s.groups.set g ⟨.opened, Vector.ofFn fun i => mask.getLsbD i, Vector.replicate 4 .empty, none,
        timeout.toNat, if timeout = 0 then none else some s.timeBase⟩ }.adminDone cmd.entry cmd.tag .ok 0
    else s.adminDone cmd.entry cmd.tag .invalid 0 := by
  have hmask : maskStreams mask = Vector.ofFn fun i => mask.getLsbD i := by
    ext1 k hk
    rw [Vector.getElem_ofFn]
    exact maskStreams_get mask ⟨k, hk⟩
  have htest : (maskGood mask && (inExecution s cmd).ringsActive mask) = true ↔ mask.toNat < 16
      ∧ (∃ i k : StreamId, i ≠ k ∧ mask.getLsbD i = true ∧ mask.getLsbD k = true)
      ∧ (∀ i : StreamId, mask.getLsbD i = true → s.rings[ringOfStream i].state = .active) := by
    rw [Bool.and_eq_true, maskGood_iff, ringsActive_iff, and_assoc]
    rfl
  unfold State.runOpenGroup
  rw [hmask]
  refine if_congr (by rw [bne_iff_ne]; rfl) rfl (if_congr htest ?_ rfl)
  rw [if_congr (toNat_eq_zero_iff timeout) rfl rfl]
  rfl

/-- A group is closed (R172). -/
theorem runCloseGroup_eq : (inExecution s cmd).runCloseGroup g =
    if s.groups[g].state = .free then s.adminDone cmd.entry cmd.tag .invalid 0
    else if s.groups[g].state = .broken then s.adminDone cmd.entry cmd.tag .ok 0
    else (s.breakGroup g).adminDone cmd.entry cmd.tag .ok 0 := by
  refine if_congr Iff.rfl rfl ?_
  have hbreak : (inExecution s cmd).breakGroup g = inExecution (s.breakGroup g) cmd :=
    (breakGroup_withAdmin s { s.admin with executing := some cmd } g).trans
      (congrArg (fun a : AdminUnit => withAdmin (s.breakGroup g) { a with executing := some cmd })
        (admin_heads.breakGroup s g).symm)
  rw [hbreak]
  split
  · next hb =>
    rw [breakGroup_same (.inr hb)]
    rfl
  · rfl

end

/-- Settles O27: the tests of the two commands. -/
theorem openAndCloseGroup : Obligations.OpenAndCloseGroup := by
  unfold Obligations.OpenAndCloseGroup
  intro s j e tag g h hd he
  refine ⟨fun mask timeout => ?_, ?_⟩
  · change Host.Outcome.next (s.adminCommand tag (.openGroup g mask timeout.toNat)) = _
    rw [adminCommand_runs h hd he, State.run, runOpenGroup_eq]
    simp only [adminLanded_ring]
    rw [apply_ite State.conclude, apply_ite State.conclude]
    rfl
  · change Host.Outcome.next (s.adminCommand tag (.closeGroup g)) = _
    rw [adminCommand_runs h hd he, State.run, runCloseGroup_eq, apply_ite State.conclude, apply_ite State.conclude]
    rfl

end Sys2Proof.Proofs
end

section
/-! The records that the LA4 writes (R211, R214) and the statistics block: O54, O28. -/
namespace Sys2Proof.Proofs
open Sys2Proof.Machine

/-! ## Fields of a list of bytes -/

theorem byteAt_cons (x : Byte) (l : List Byte) (k : Nat) : byteAt (x :: l) (k + 1) = byteAt l k := rfl

theorem leField_cons (x : Byte) (l : List Byte) (o n : Nat) : leField (x :: l) (o + 1) n = leField l o n := by
  induction n generalizing o with
  | zero => rfl
  | succ n ih =>
    rw [leField, leField, byteAt_cons, ih]

/-- A field that stands behind the first bytes of a list. -/
theorem leField_skip (a b : List Byte) (o n : Nat) : leField (a ++ b) (a.length + o) n = leField b o n := by
  induction a with
  | nil => rw [List.nil_append, List.length_nil, Nat.zero_add]
  | cons x a ih => rw [List.cons_append, List.length_cons, Nat.add_right_comm, leField_cons, ih]

theorem byteAt_skip (a b : List Byte) (k : Nat) : byteAt (a ++ b) (a.length + k) = byteAt b k := by
  induction a with
  | nil => rw [List.nil_append, List.length_nil, Nat.zero_add]
  | cons x a ih => rw [List.cons_append, List.length_cons, Nat.add_right_comm, byteAt_cons, ih]

/-- The bytes of a value read back as the value, as far as they go. -/
theorem leField_here (n v : Nat) (b : List Byte) : leField (leBytes n v ++ b) 0 n = v % 256 ^ n := by
  induction n generalizing v with
  | zero => rw [Nat.pow_zero, Nat.mod_one]; rfl
  | succ n ih =>
    have hb : byteAt (leBytes (n + 1) v ++ b) 0 = v % 256 := BitVec.toNat_ofNat ..
    rw [leField, hb, leBytes, List.cons_append, leField_cons, ih, Nat.pow_succ', Nat.mod_mul]

section
variable (m v : Nat) (b : List Byte)

/-- A field behind the bytes of a value. -/
theorem leField_after {o : Nat} (h : m ≤ o) (n : Nat) : leField (leBytes m v ++ b) o n = leField b (o - m) n := by
  have := leField_skip (leBytes m v) b (o - m) n
  rwa [length_leBytes, Nat.add_sub_cancel' h] at this

theorem byteAt_after {k : Nat} (h : m ≤ k) : byteAt (leBytes m v ++ b) k = byteAt b (k - m) := by
  have := byteAt_skip (leBytes m v) b (k - m)
  rwa [length_leBytes, Nat.add_sub_cancel' h] at this

end

theorem leField_last (n v : Nat) : leField (leBytes n v) 0 n = v % 256 ^ n := by
  have := leField_here n v []
  rwa [List.append_nil] at this

theorem byteAt_replicate (n k : Nat) : byteAt (List.replicate n 0) k = 0 := by
  unfold byteAt
  rw [List.getD_eq_getElem?_getD, List.getElem?_replicate]
  split <;> rfl

theorem ofNat_toNat_small {v : Nat} (h : v < 256) : (BitVec.ofNat 8 v).toNat = v :=
  (BitVec.toNat_ofNat ..).trans (Nat.mod_eq_of_lt h)

theorem toNat_lt_half (v : BitVec 16) : v.toNat < 65536 := v.isLt

theorem toNat_lt_word (v : BitVec 32) : v.toNat < 4294967296 := v.isLt

/-! ## The completion record -/

/-- Settles O54: the fields, one behind the other. -/
theorem completionRecordLayout : Obligations.CompletionRecordLayout := by
  unfold Obligations.CompletionRecordLayout
  rintro source e lap b rfl hslot
  have hflags : ∀ p u l : Bool, (if p then 1 else 0) + (if u then 2 else 0) + (if l then 128 else 0) < 256 := by decide
  have hbits : ∀ p u l : Bool, ((if p then 1 else 0) + (if u then 2 else 0) + (if l then 128 else 0) : Nat).testBit 0 = p
      ∧ ((if p then 1 else 0) + (if u then 2 else 0) + (if l then 128 else 0) : Nat).testBit 1 = u
      ∧ ((if p then 1 else 0) + (if u then 2 else 0) + (if l then 128 else 0) : Nat).testBit 7 = l
      ∧ ∀ k : Fin 7, 2 ≤ k.val →
        ((if p then 1 else 0) + (if u then 2 else 0) + (if l then 128 else 0) : Nat).testBit k = false := by decide
  have h0 : byteAt (completionRecord source e lap) 0 = source.val := ofNat_toNat_small (by omega)
  have h1 : byteAt (completionRecord source e lap) 1 = e.report.status.code :=
    ofNat_toNat_small (by cases e.report.status <;> decide)
  have h2 : byteAt (completionRecord source e lap) 2 = e.groupStatus.code := ofNat_toNat_small (by cases e.groupStatus <;> decide)
  have h3 : byteAt (completionRecord source e lap) 3 = (if e.report.framePresent then 1 else 0)
      + (if e.report.unsettled then 2 else 0) + (if lap then 128 else 0) := ofNat_toNat_small (hflags _ _ _)
  obtain ⟨hb0, hb1, hb7, hrest⟩ := hbits e.report.framePresent e.report.unsettled lap
  refine ⟨length_completionRecord _ _ _, h0, ?_, ?_, ?_, ?_, ?_, fun k hk hk' => ?_, ?_⟩
  · rw [h1]
    cases e.report.status <;> rfl
  · rw [h2]
    cases e.groupStatus <;> rfl
  · rw [h3, hb0]
  · rw [h3, hb1]
  · rw [h3, hb7]
  · rw [h3]
    exact hrest ⟨k, by omega⟩ hk
  · simp [completionRecord, leField_cons, leField_after, leField_here, leField_last, hslot, toNat_lt_half, toNat_lt_word]

/-! ## READ_STATS -/

/-- READ_STATS takes its snapshot (R173). -/
theorem runReadStats_eq {s : State} {cmd : AdminCommand} (i : StreamId) (block : Addr) (clear : Bool) :
    (inExecution s cmd).runReadStats i block clear =
      if block.toNat % 64 = 0 ∧ block.toNat + 64 ≤ 2 ^ 64 then { s with admin := { s.admin with
          executing := some cmd
          snapshot := some ⟨i, block, clear, s.streams[i].stats, s.streams[i].lastLineCount, s.streams[i].status, false⟩ } }
      else s.adminDone cmd.entry cmd.tag .invalid 0 := by
  unfold State.runReadStats
  simp only [Bool.and_eq_true, decide_eq_true_eq, beq_iff_eq]
  rfl

theorem length_statisticsBlock (n : Snapshot) : (statisticsBlock n).length = 64 := by
  simp [statisticsBlock, length_leBytes]

theorem issueBlock_eq {s : State} {n : Snapshot} {j : Fin Config.writeEntries} (hn : s.admin.snapshot = some n) (hj : s.nextWrite j) :
    s.issueBlock = { s with
      admin := { s.admin with snapshot := some { n with issued := true } }
      writes := s.writes.set j (.issued ⟨.statisticsBlock, some .statistics, n.block, 64, s.timeBase, s.responseTimeout, []⟩)
      handed := some ⟨.write, j, n.block, 64, statisticsBlock n⟩ } := by
  unfold State.issueBlock
  rw [hn]
  dsimp only
  rw [issueWrite_next (s := { s with admin := { s.admin with snapshot := some { n with issued := true } } }) hj,
    length_statisticsBlock]
  rfl

theorem blockLanded_eq {s : State} {n : Snapshot} {cmd : AdminCommand} (hn : s.admin.snapshot = some n)
    (he : s.admin.executing = some cmd) : s.blockLanded
      = (if n.clear then s.withStream n.stream { s.streams[n.stream] with
          stats := s.streams[n.stream].stats.lower n.stats } else s).adminDone cmd.entry cmd.tag .ok 0 := by
  have hbump : s.bump n.stream (·.lower n.stats)
      = s.withStream n.stream { s.streams[n.stream] with stats := s.streams[n.stream].stats.lower n.stats } := rfl
  unfold State.blockLanded
  rw [hn]
  dsimp only
  rw [hbump]
  refine complete_eq ?_ .ok 0
  split
  · exact he
  · exact he

/-- The statistics block, field by field (R214). -/
theorem statisticsBlock_fields (n : Snapshot) (b : List Byte) (c : Stats) (hb : b = statisticsBlock n) (hc : c = n.stats) :
    b.length = 64
    ∧ leField b 0 4 = c.framesSeen.toNat ∧ leField b 4 4 = c.framesBound.toNat
    ∧ leField b 8 4 = c.framesUnclaimed.toNat ∧ leField b 12 4 = c.framesForeign.toNat
    ∧ leField b 16 4 = c.framesTruncated.toNat ∧ leField b 20 4 = c.linesDamaged.toNat
    ∧ leField b 24 4 = c.packetsStray.toNat ∧ leField b 28 4 = c.linesOverrun.toNat
    ∧ leField b 32 4 = c.linesUnpaired.toNat ∧ leField b 36 4 = c.linesLate.toNat
    ∧ leField b 40 4 = c.evictions.toNat ∧ leField b 44 4 = c.laneLosses.toNat
    ∧ leField b 48 4 = c.headerErrors.toNat ∧ leField b 52 2 = n.lastLineCount.toNat
    ∧ byteAt b 54 = [StreamStatus.disabled, .unlinked, .betweenFrames, .inFrame].idxOf n.status
    ∧ ∀ k, 55 ≤ k → k < 64 → byteAt b k = 0 := by
  subst hb hc
  have hlen := length_statisticsBlock n
  have hstatus : (BitVec.ofNat 8 n.status.code).toNat = [StreamStatus.disabled, .unlinked, .betweenFrames, .inFrame].idxOf n.status := by
    cases n.status <;> decide
  have hcode : byteAt (statisticsBlock n) 54 = (BitVec.ofNat 8 n.status.code).toNat := by
    simp only [statisticsBlock, List.append_assoc, byteAt_after, Nat.reduceLeDiff, Nat.reduceSub]
    rfl
  have hzero : ∀ k, 55 ≤ k → byteAt (statisticsBlock n) k = 0 := fun k hk => by
    obtain ⟨m, rfl⟩ := Nat.exists_eq_add_of_le hk
    have behind : ∀ a : List Byte, a.length = 55 → byteAt (a ++ List.replicate 9 0) (55 + m) = 0 := fun a ha =>
      (ha ▸ byteAt_skip a (List.replicate 9 0) m).trans (byteAt_replicate 9 m)
    exact behind _ (by simp [length_leBytes])
  refine ⟨hlen, ?_, ?_, ?_, ?_, ?_, ?_, ?_, ?_, ?_, ?_, ?_, ?_, ?_, ?_, hcode.trans hstatus, fun k hk _ => hzero k hk⟩
  all_goals simp [statisticsBlock, leField_after, leField_here, toNat_lt_half, toNat_lt_word]

/-- Settles O28: the snapshot, the issue, the answers and the block. -/
theorem readStats : Obligations.ReadStats := by
  unfold Obligations.ReadStats
  refine ⟨fun s j e tag i block clear h hd he => ?_, fun s n cmd hn he => ⟨fun j hi hd hj hbefore => ?_, fun hi => ?_,
    fun j hfor hd => ⟨?_, fun code => ?_⟩⟩, statisticsBlock_fields, fun a b => ?_⟩
  · change Host.Outcome.next (s.adminCommand tag (.readStats i block clear)) = _
    rw [adminCommand_runs h hd he, State.run, runReadStats_eq, apply_ite State.conclude]
    rfl
  · have hready : s.requesterReady 1 = true := (requesterReady_admin s).mpr ⟨n, hn, hi⟩
    change Host.Outcome.next (if s.granted = some 1 then { s with writeRotation := 2 }.issueBlock else s) = _
    rw [if_pos (granted_of_ready hd hj hready hbefore), issueBlock_eq (s := { s with writeRotation := 2 }) hn hj]
    rfl
  · change Host.Outcome.next (if s.granted = some 1 then { s with writeRotation := 2 }.issueBlock else s) = _
    rw [if_neg (not_granted (.inl ?_))]
    rw [← Bool.not_eq_true, requesterReady_admin]
    rintro ⟨m, hm, hi'⟩
    obtain rfl := Option.some.inj (hn.symm.trans hm)
    rw [hi] at hi'
    cases hi'
  · refine congrArg Host.Outcome.next ((respond_write_some hfor hd (u := (s.writeFreed j).blockLanded) fun t ho => by rw [ho]).trans ?_)
    rw [blockLanded_eq (s := s.writeFreed j) hn he]
    rfl
  · refine congrArg Host.Outcome.next
      ((respond_write_some hfor hd (u := (s.writeFreed j).complete .writeFault 0) fun t ho => by rw [ho]).trans ?_)
    rw [complete_eq (s := s.writeFreed j) he]
  · rfl

end Sys2Proof.Proofs
end

section
/-! Data bursts and the answers that reach no owner (R181 to R188): O47, O48, O49. -/
namespace Sys2Proof.Proofs
open Sys2Proof.Machine

/-! ## Counters and rows -/

theorem toNat_satInc {w : Nat} (v : BitVec w) : (satInc v).toNat = min (v.toNat + 1) (2 ^ w - 1) := by
  have hlt := v.isLt
  unfold satInc
  split
  · next h =>
    rw [h, BitVec.toNat_allOnes]
    omega
  · next h =>
    have hne : v.toNat ≠ 2 ^ w - 1 := fun e => h (BitVec.eq_of_toNat_eq (e.trans BitVec.toNat_allOnes.symm))
    rw [BitVec.toNat_add]
    cases w with
    | zero => omega
    | succ w =>
      have hone : (1 : BitVec (w + 1)).toNat = 1 := BitVec.toNat_ofNat _ _ ▸ Nat.mod_eq_of_lt (Nat.one_lt_two_pow (by omega))
      rw [hone, Nat.mod_eq_of_lt (by omega)]
      omega

theorem toNat_satIncBy {w : Nat} (n : Nat) (v : BitVec w) : (satIncBy n v).toNat = min (v.toNat + n) (2 ^ w - 1) := by
  induction n generalizing v with
  | zero =>
    have := v.isLt
    rw [satIncBy]
    omega
  | succ n ih =>
    rw [satIncBy, ih, toNat_satInc]
    omega

theorem mem_insertRow (r a : Nat) (l : List Nat) : a ∈ insertRow r l ↔ a = r ∨ a ∈ l := by
  induction l with
  | nil => rw [insertRow, List.mem_singleton, List.mem_nil_iff, or_false]
  | cons b l ih =>
    rw [insertRow]
    split
    · rw [List.mem_cons]
    · split
      · next h =>
        subst h
        rw [List.mem_cons, ← or_assoc, or_self]
      · rw [List.mem_cons, ih, List.mem_cons, or_left_comm]

theorem countRow_eq (rows : List Nat) (r : Nat) (n : Half) : countRow rows r n = if r ∈ rows then n else satInc n := by
  unfold countRow
  exact if_congr List.contains_iff_mem rfl rfl

/-- The row accounting of a line (R21). -/
theorem takeLine_eq (k : Capture) (l : OutputLine) : ∃ written short damaged,
    k.takeLine l = { k with
      rowsWritten := written, rowsShort := short, rowsDamaged := damaged
      counters := { k.counters with
        written := if l.row ∈ k.rowsWritten then k.counters.written else satInc k.counters.written
        short := if l.short = true ∧ l.row ∉ k.rowsShort then satInc k.counters.short else k.counters.short
        damaged := if l.damaged = true ∧ l.row ∉ k.rowsDamaged then satInc k.counters.damaged else k.counters.damaged
        unpaired := if l.unpaired = true then satInc k.counters.unpaired else k.counters.unpaired } }
    ∧ (∀ r, r ∈ written ↔ r = l.row ∨ r ∈ k.rowsWritten)
    ∧ (∀ r, r ∈ short ↔ (r = l.row ∧ l.short = true) ∨ r ∈ k.rowsShort)
    ∧ ∀ r, r ∈ damaged ↔ (r = l.row ∧ l.damaged = true) ∨ r ∈ k.rowsDamaged := by
  have counted : ∀ (b : Bool) (rows : List Nat) (n : Half), (if b = true then countRow rows l.row n else n)
      = if b = true ∧ l.row ∉ rows then satInc n else n := by
    intro b rows n
    rw [countRow_eq]
    by_cases hb : b = true
    · by_cases hr : l.row ∈ rows <;> simp [hb, hr]
    · simp [hb]
  have marked : ∀ (b : Bool) (rows : List Nat) (r : Nat), r ∈ (if b = true then insertRow l.row rows else rows)
      ↔ (r = l.row ∧ b = true) ∨ r ∈ rows := by
    intro b rows r
    by_cases hb : b = true
    · rw [if_pos hb, mem_insertRow]
      simp [hb]
    · rw [if_neg hb]
      simp [hb]
  refine ⟨_, _, _, ?_, fun r => mem_insertRow _ _ _, marked l.short k.rowsShort, marked l.damaged k.rowsDamaged⟩
  unfold Capture.takeLine
  dsimp only
  rw [countRow_eq, counted, counted]

/-! ## Captures of a held context -/

theorem onCapture_eq {s : State} {i : StreamId} {c : ContextId} {k : Capture} (h : s.streams[i].contexts[c] = some k)
    (f : Capture → Capture) : s.onCapture i c f
      = s.withStream i { s.streams[i] with contexts := s.streams[i].contexts.set c (some (f k)) } := by
  have := State.onCapture_withStream (s := s) (i := i) (x := s.streams[i]) h f
  rwa [State.withStream_same] at this

/-- The row accounting of a held line in its capture and stream (R21, R104). -/
theorem accountLine_eq {s : State} {i : StreamId} {l : OutputLine} {k : Capture} (h : s.streams[i].contexts[l.context] = some k) :
    s.accountLine i l = s.withStream i { s.streams[i] with
      contexts := s.streams[i].contexts.set l.context (some (k.takeLine l))
      stats := if l.unpaired = true then { s.streams[i].stats with
        linesUnpaired := satInc s.streams[i].stats.linesUnpaired } else s.streams[i].stats } := by
  unfold State.accountLine
  dsimp only
  rw [onCapture_eq h]
  split
  · unfold State.bump
    rw [State.onStream_eq, State.withStream_twice, State.withStream_get]
  · rfl

/-- A capture whose write has failed (R53, R91, R109). -/
theorem writeFault_eq {s : State} {i : StreamId} {c : ContextId} {k : Capture} (h : s.streams[i].contexts[c] = some k) :
    s.writeFault i c = { s.withStream i { s.streams[i] with
        contexts := s.streams[i].contexts.set c (some { k with
          outstanding := k.outstanding - 1, phase := .flushing, flushPending := false
          causes := { k.causes with writeFault := true } })
        frame := s.streams[i].frame.map fun f : Frame => if f.bound = some c then { f with bound := none } else f
        buffer := s.streams[i].buffer.filter fun l => l.context ≠ c } with
      pairing := s.pairing.filter fun h => !h.ownedBy i c } := by
  have h' : s.streams[i.val].contexts[c.val] = some k := h
  unfold State.writeFault State.capture?
  rw [h]
  simp [State.leaveCapturing, State.releaseHeld, State.dropLines, State.onCapture, State.onStream, State.withStream, h']

/-! ## Bursts -/

theorem issueBurst_eq {s : State} {i : StreamId} {l : OutputLine} {rest : List OutputLine} {k : Capture} {j : Fin Config.writeEntries}
    {a : Addr} {n : Nat} (hb : s.streams[i].buffer = l :: rest) (hk : s.streams[i].contexts[l.context] = some k) (hj : s.nextWrite j)
    (ha : a = l.address + BitVec.ofNat 64 l.issued) (hn : n = burstLength a (l.bytes.length - l.issued)) :
    s.issueBurst i = { s.withStream i { s.streams[i] with
        buffer := if l.bytes.length ≤ l.issued + n then rest else { l with issued := l.issued + n } :: rest
        contexts := s.streams[i].contexts.set l.context (some (if l.issued = 0
          then { k with outstanding := k.outstanding + 1 }.takeLine l
          else { k with outstanding := k.outstanding + 1 }))
        stats := if l.issued = 0 ∧ l.unpaired = true then { s.streams[i].stats with
          linesUnpaired := satInc s.streams[i].stats.linesUnpaired } else s.streams[i].stats } with
      writes := s.writes.set j (.issued ⟨.dataBurst, some (.capture i l.context), a,
        ((l.bytes.drop l.issued).take n).length, s.timeBase, s.responseTimeout, []⟩)
      handed := some ⟨.write, j, a, ((l.bytes.drop l.issued).take n).length, (l.bytes.drop l.issued).take n⟩ } := by
  subst ha hn
  have hcounted : (if l.issued = 0 then (s.onCapture i l.context fun k => { k with outstanding := k.outstanding + 1 }).accountLine i l
      else s.onCapture i l.context fun k => { k with outstanding := k.outstanding + 1 }) = s.withStream i { s.streams[i] with
        contexts := s.streams[i].contexts.set l.context (some (if l.issued = 0
          then { k with outstanding := k.outstanding + 1 }.takeLine l
          else { k with outstanding := k.outstanding + 1 }))
        stats := if l.issued = 0 ∧ l.unpaired = true then { s.streams[i].stats with
          linesUnpaired := satInc s.streams[i].stats.linesUnpaired } else s.streams[i].stats } := by
    rw [onCapture_eq hk]
    by_cases h0 : l.issued = 0
    · rw [if_pos h0, accountLine_eq (k := { k with outstanding := k.outstanding + 1 }), State.withStream_twice, State.withStream_get,
        if_pos h0, if_congr (and_iff_right h0) rfl rfl]
      · simp
      · rw [State.withStream_get]
        exact (get_set _ _ _ _).trans (if_pos rfl)
    · rw [if_neg h0, if_neg h0, if_neg fun h => h0 h.1]
  unfold State.issueBurst
  rw [hb]
  dsimp only
  rw [hcounted, State.onStream_eq, State.withStream_twice, State.withStream_get]
  exact issueWrite_next (s := s.withStream i _) hj ..

theorem burstLength_bounds {a : Addr} {left n : Nat} (h : n = burstLength a left) :
    n ≤ 256 ∧ n ≤ left ∧ n ≤ 4096 - a.toNat % 4096 ∧ (n = 256 ∨ n = left ∨ n = 4096 - a.toNat % 4096) := by
  unfold burstLength at h
  omega

theorem streamOfRequester_eq {i : StreamId} {q : RequesterId} (h : q.val = i.val + 2) : streamOfRequester q = some i := by
  unfold streamOfRequester streamOf
  rw [if_pos (by omega)]
  have hv : q.val - 2 = i.val := by omega
  simp only [hv]
  exact dif_pos i.isLt

theorem streamOfRequester_val {i : StreamId} {q : RequesterId} (h : streamOfRequester q = some i) : q.val = i.val + 2 := by
  unfold streamOfRequester streamOf at h
  split at h
  · split at h
    · obtain rfl := Option.some.inj h
      dsimp only
      omega
    · cases h
  · cases h

/-- Settles O47: the burst of the granted stream, and the counts it makes. -/
theorem dataBurstIssue : Obligations.DataBurstIssue := by
  unfold Obligations.DataBurstIssue
  refine ⟨fun s => ⟨fun i g l rest k j a n hg hd hb hbefore hj hk ha hn => ?_, fun hnone => ?_⟩, fun a left n => burstLength_bounds,
    takeLine_eq, fun w v n => ⟨toNat_satInc v, toNat_satIncBy n v⟩,
    fun s => ⟨requesterReady_writer s, requesterReady_admin s, fun i q => requesterReady_stream s⟩⟩
  · have hready : s.requesterReady g = true := (requesterReady_stream s hg).mpr (by rw [hb]; exact List.cons_ne_nil l rest)
    change Host.Outcome.next _ = _
    rw [granted_of_ready hd hj hready hbefore]
    dsimp only
    rw [streamOfRequester_eq hg]
    exact congrArg Host.Outcome.next (issueBurst_eq (s := { s with writeRotation := g + 1 }) hb hk hj ha hn)
  · change Host.Outcome.next _ = _
    cases hgrant : s.granted with
    | none => rfl
    | some q =>
      dsimp only
      cases hstream : streamOfRequester q with
      | none => rfl
      | some i =>
        exfalso
        have hready := (requesterReady_stream s (streamOfRequester_val hstream)).mp (State.granted_some hgrant).2
        rcases hnone with h | h | h
        · exact hready (h i)
        · exact not_granted (.inr (.inl h)) hgrant
        · exact not_granted (.inr (.inr (.inl h))) hgrant

/-- Settles O48: the two answers, each by its owner's rule. -/
theorem dataBurstAnswered : Obligations.DataBurstAnswered := by
  unfold Obligations.DataBurstAnswered
  intro s j i c k hfor hd hk
  refine ⟨?_, fun code => ?_⟩
  · refine congrArg Host.Outcome.next ((respond_write_some hfor hd (u := (s.writeFreed j).burstWritten i c) fun t ho => by rw [ho]).trans ?_)
    exact congrArg State.conclude (onCapture_eq (s := s.writeFreed j) hk _)
  · refine congrArg Host.Outcome.next ((respond_write_some hfor hd (u := (s.writeFreed j).writeFault i c) fun t ho => by rw [ho]).trans ?_)
    exact congrArg State.conclude (writeFault_eq (s := s.writeFreed j) hk)

/-! ## Responses that reach no owner -/

/-- A response that names a FREE entry or none is stray (R185). -/
theorem respond_stray {s : State} {d : Direction} {id : Nat} (h : s.trackerEntry d id = none ∨ s.trackerEntry d id = some .free)
    (f : Transaction → State → Option State) : s.respond d id f = s := by
  unfold State.respond State.meeting
  rcases h with h | h <;> rw [h]

/-- A beat for a FREE entry or none is discarded (R183, R185). -/
theorem takeBeat_stray {s : State} {id : Nat} (h : s.readEntry id = none ∨ s.readEntry id = some .free) (b : Beat)
    (f : Transaction → ReadAnswer → State → Option State) : s.takeBeat id b f = s := by
  by_cases hb : b.last = true
  · rw [State.takeBeat_last hb]
    exact respond_stray (d := .read) h _
  · rw [State.takeBeat_more (by simpa using hb)]
    unfold State.collectBeat
    rcases h with h | h <;> rw [h]

theorem takeBeat_collects {s : State} {j : Fin Config.readEntries} {t : Transaction} (ht : s.reads[j] = .issued t) {b : Beat}
    (hb : b.last = false) (f : Transaction → ReadAnswer → State → Option State) :
    s.takeBeat j b f = { s with reads := s.reads.set j (.issued { t with beats := t.beats ++ [b] }) } := by
  rw [State.takeBeat_more hb, State.collectBeat_eq b ht]

/-- A late response frees its entry and lowers the quarantine count (R188). -/
theorem exec_lateResponse {s : State} {d : Direction} {id : Nat} {t : Transaction} (h : s.trackerEntry d id = some (.quarantined t)) :
    exec (.lateResponse d id) s = .next (s.lateFreed d id).conclude := by
  have hm : s.meeting d id = .late := by
    unfold State.meeting
    rw [h]
  change Host.Outcome.next _ = _
  rw [hm]

/-- In RESETTING a response frees its entry (R191). -/
theorem exec_resettingResponse {s : State} {d : Direction} {id : Nat} {t : Transaction} (hd : s.device = .resetting)
    (h : s.trackerEntry d id = some (.issued t)) : exec (.resettingResponse d id) s = .next (s.setTracker d id .free).conclude := by
  have hm : s.meeting d id = .resetting := by
    unfold State.meeting
    rw [h]
    exact if_pos hd
  change Host.Outcome.next _ = _
  rw [hm]

/-- Settles O49: each response by what it meets. -/
theorem responsesWithoutOwner : Obligations.ResponsesWithoutOwner := by
  unfold Obligations.ResponsesWithoutOwner
  intro s id b wa code dir
  refine ⟨fun h c hc => ?_, fun h c hc => ?_, rfl, fun j t ht hb c hc => ?_, fun j t ht => ?_, fun j t ht => ?_,
    fun hd => ⟨fun j t ht => ?_, fun j t ht => ?_⟩⟩
  · simp only [List.mem_cons, List.not_mem_nil, or_false] at hc
    rcases hc with rfl | rfl | rfl | rfl | rfl | rfl <;> exact congrArg Host.Outcome.next (takeBeat_stray h b _)
  · simp only [List.mem_cons, List.not_mem_nil, or_false] at hc
    rcases hc with rfl | rfl | rfl | rfl | rfl <;> exact congrArg Host.Outcome.next (respond_stray (d := .write) h _)
  · simp only [List.mem_cons, List.not_mem_nil, or_false] at hc
    rcases hc with rfl | rfl | rfl | rfl | rfl | rfl <;> exact congrArg Host.Outcome.next (takeBeat_collects ht hb _)
  · rw [exec_lateResponse (d := .read) (id := j) (t := t) (ht ▸ s.readEntry_fin j), State.lateFreed, State.setTracker_read_free]
  · rw [exec_lateResponse (d := .write) (id := j) (t := t) (ht ▸ s.writeEntry_fin j), State.lateFreed, State.setTracker_write_free]
  · rw [exec_resettingResponse (d := .read) (id := j) (t := t) hd (ht ▸ s.readEntry_fin j), State.setTracker_read_free]
  · rw [exec_resettingResponse (d := .write) (id := j) (t := t) hd (ht ▸ s.writeEntry_fin j), State.setTracker_write_free]

end Sys2Proof.Proofs
end

section
/-! Response timeouts (R187, R189): O50. -/
namespace Sys2Proof.Proofs
open Sys2Proof.Machine

/-! ## The entry and the limit -/

theorem exec_responseTimeout {s : State} {d : Direction} {id : Nat} {t : Transaction} (h : s.trackerEntry d id = some (.issued t)) :
    exec (.responseTimeout d id) s = .next (if s.responseLate t then (s.timeOut d id t).conclude else s) := by
  change Host.Outcome.next _ = _
  rw [h]

theorem responseLate_iff (s : State) (t : Transaction) : s.responseLate t = true ↔
    s.device ≠ .resetting ∧ t.timeout * 1000 ≤ (s.timeBase - t.issueTime).toNat := by
  unfold State.responseLate ranOut
  rw [Bool.and_eq_true, bne_iff_ne, decide_eq_true_eq]

section
variable {s : State} {d : Direction} {id : Nat} {t : Transaction} (h : s.trackerEntry d id = some (.issued t))
include h

/-- Before its time, and in RESETTING, a response timeout does nothing (R187, R191). -/
theorem exec_responseTimeout_early (hn : s.device = .resetting ∨ (s.timeBase - t.issueTime).toNat < t.timeout * 1000) :
    exec (.responseTimeout d id) s = .next s := by
  rw [exec_responseTimeout h, if_neg]
  rw [responseLate_iff]
  rintro ⟨hd, hle⟩
  rcases hn with hn | hn
  · exact hd hn
  · omega

theorem exec_responseTimeout_late (hd : s.device ≠ .resetting) (hle : t.timeout * 1000 ≤ (s.timeBase - t.issueTime).toNat) :
    exec (.responseTimeout d id) s = .next ((s.failOwner t.owner).quarantineEntry d id t).judgeQuarantine.conclude := by
  rw [exec_responseTimeout h, if_pos ((responseLate_iff s t).mpr ⟨hd, hle⟩)]
  rfl

end

theorem quarantineEntry_read (s : State) (j : Fin Config.readEntries) (t : Transaction) : s.quarantineEntry .read j t = { s with
    reads := s.reads.set j (.quarantined { t with owner := none }), quarantine := s.quarantine + 1 } := by
  unfold State.quarantineEntry
  rw [setTracker_read_fin]

theorem quarantineEntry_write (s : State) (j : Fin Config.writeEntries) (t : Transaction) : s.quarantineEntry .write j t = { s with
    writes := s.writes.set j (.quarantined { t with owner := none }), quarantine := s.quarantine + 1 } := by
  unfold State.quarantineEntry
  rw [setTracker_write_fin]

theorem judgeQuarantine_of_faulted {u : State} (h : u.device = .faulted) : u.judgeQuarantine = u := by
  unfold State.judgeQuarantine
  rw [enterFaulted_of_faulted h, ite_self]

/-- What the limit does where the owner has not faulted the device (R189). -/
theorem judgeQuarantine_to {s u : State} (hq : u.quarantine = s.quarantine + 1) (hd : u.device = s.device) :
    s.quarantinesTo u.judgeQuarantine.conclude u := by
  refine ⟨fun h => ?_, fun h8 hnf => ?_⟩
  · rcases h with h | h
    · unfold State.judgeQuarantine Config.quarantineLimit
      rw [if_neg (by omega)]
    · rw [judgeQuarantine_of_faulted (hd.trans h)]
  · have hfault : u.judgeQuarantine = u.enterFaulted .quarantine := by
      unfold State.judgeQuarantine Config.quarantineLimit
      rw [if_pos (by omega)]
    have hnf' : u.device ≠ .faulted := by rw [hd]; exact hnf
    rw [hfault]
    obtain ⟨hlanes, hout⟩ := fault_concludes hnf' .quarantine
    exact ⟨hlanes, hout, fun hall => by rw [State.enterFaulted_eq hall _ hnf']⟩

/-- A faulted device's event leaves its lanes in OFF and what lies outside the streams and lists. -/
theorem conclude_faulted {u : State} (hd : u.device = .faulted) (hl : u.allLanesOff) :
    u.conclude.allLanesOff ∧ u.conclude.outside = u.outside := by
  refine ⟨State.conclude_lanes (by rw [hd]; decide) hl, ?_⟩
  rcases State.conclude_outside u with ⟨h, -⟩ | ⟨h, -⟩ | ⟨h, -⟩
  · exact h
  · rw [hd] at h; cases h
  · rw [hd] at h; cases h

theorem enterFaulted_lanes {s : State} (hnf : s.device ≠ .faulted) (c : FaultCause) : (s.enterFaulted c).allLanesOff := by
  unfold State.enterFaulted
  rw [if_neg hnf]
  exact State.lanesOff_all _

/-- A response timeout whose owner faults the device (R132, R142, R150). -/
theorem timeout_faults {s : State} (hnf : s.device ≠ .faulted) (c : FaultCause) (d : Direction) (id : Nat) (t : Transaction) :
    ((s.enterFaulted c).quarantineEntry d id t).judgeQuarantine.conclude.allLanesOff
    ∧ ((s.enterFaulted c).quarantineEntry d id t).judgeQuarantine.conclude.outside
      = ((s.quarantineEntry d id t).withFault c).outside := by
  have hout : ((s.enterFaulted c).quarantineEntry d id t).outside = ((s.quarantineEntry d id t).withFault c).outside := by
    rw [outside_quarantineEntry, outside_enterFaulted hnf]
    cases d <;> rfl
  have hlanes : ((s.enterFaulted c).quarantineEntry d id t).allLanesOff := by
    intro i
    have := enterFaulted_lanes hnf c i
    cases d <;> exact this
  generalize (s.enterFaulted c).quarantineEntry d id t = u at hout hlanes
  have hdev : u.device = .faulted := (congrArg State.device hout :)
  rw [judgeQuarantine_of_faulted hdev]
  obtain ⟨hl, ho⟩ := conclude_faulted hdev hlanes
  exact ⟨hl, ho.trans hout⟩

/-! ## The owners -/

section
variable {s : State} {t : Transaction} {u : State}

section
variable {j : Fin Config.writeEntries} (hu : u = { s with
  writes := s.writes.set j (.quarantined { t with owner := none }), quarantine := s.quarantine + 1 })
include hu

theorem capture_times_out {i : StreamId} {c : ContextId} {k : Capture} (ho : t.owner = some (.capture i c))
    (hk : s.streams[i].contexts[c] = some k) : (s.failOwner t.owner).quarantineEntry .write j t = { u.withStream i { s.streams[i] with
        contexts := s.streams[i].contexts.set c (some { k with
          outstanding := k.outstanding - 1, phase := .flushing, flushPending := false
          causes := { k.causes with writeFault := true } })
        frame := s.streams[i].frame.map fun f : Frame => if f.bound = some c then { f with bound := none } else f
        buffer := s.streams[i].buffer.filter fun l => l.context ≠ c } with
      pairing := s.pairing.filter fun h => !h.ownedBy i c } := by
  have hfail : s.failOwner t.owner = s.writeFault i c := by rw [ho]; rfl
  rw [hfail, writeFault_eq hk, quarantineEntry_write, hu]
  rfl

theorem statistics_time_out {cmd : AdminCommand} (ho : t.owner = some .statistics) (he : s.admin.executing = some cmd) :
    (s.failOwner t.owner).quarantineEntry .write j t = u.adminDone cmd.entry cmd.tag .writeFault 0 := by
  have hfail : s.failOwner t.owner = s.complete .writeFault 0 := by rw [ho]; rfl
  rw [hfail, complete_eq he, quarantineEntry_write, hu]
  rfl

end

section
variable {j : Fin Config.readEntries} (hu : u = { s with
  reads := s.reads.set j (.quarantined { t with owner := none }), quarantine := s.quarantine + 1 })
include hu

theorem slot_times_out {e : EntryId} {i : StreamId} (ho : t.owner = some (.slot e)) (hring : ringOfEntry e = ringOfStream i)
    (hs : s.rings[ringOfStream i].state = .active ∨ s.rings[ringOfStream i].state = .halted) :
    (s.failOwner t.owner).quarantineEntry .read j t = { u with
      rings := s.rings.set (ringOfStream i) { s.rings[ringOfStream i] with state := .halted, inFlight := false }
      }.withReady e (.unbound .fetchFault 0 0) true := by
  have hfail : s.failOwner t.owner = s.slotFails e := by rw [ho]; rfl
  rw [hfail, slotFails_stream hring hs, quarantineEntry_read, hu]
  rfl

theorem load_times_out {n : Nat} {l : Load} {cmd : AdminCommand} (ho : t.owner = some (.load n)) (hl : s.admin.load = some l)
    (he : s.admin.executing = some cmd) : (s.failOwner t.owner).quarantineEntry .read j t = if l.outstanding ≤ 1 then
      u.adminDone cmd.entry cmd.tag .readFault 0
      else { u with admin := { s.admin with load := some { l with outstanding := l.outstanding - 1, failed := true } } } := by
  have hfail : s.failOwner t.owner = s.burstFails := by rw [ho]; rfl
  rw [hfail, (load_fails hl he).1, quarantineEntry_read, hu]
  split <;> rfl

end
end

/-- Settles O50: the time, the owner's failure, and the limit. -/
theorem responseTimesOut : Obligations.ResponseTimesOut := by
  unfold Obligations.ResponseTimesOut
  intro s t
  refine ⟨fun j ht => ⟨exec_responseTimeout_early (ht ▸ s.writeEntry_fin j), fun hd hle u hu => ?_⟩,
    fun j ht => ⟨exec_responseTimeout_early (ht ▸ s.readEntry_fin j), fun hd hle u hu => ?_⟩⟩
  · have hexec := exec_responseTimeout_late (d := .write) (id := j) (ht ▸ s.writeEntry_fin j) hd hle
    rw [hexec]
    refine ⟨fun i c k ho hk => ⟨_, rfl, ?_⟩, fun cmd ho he => ⟨_, rfl, ?_⟩, fun e ho => ?_⟩
    · rw [capture_times_out hu ho hk]
      exact judgeQuarantine_to (by rw [hu]; rfl) (by rw [hu]; rfl)
    · rw [statistics_time_out hu ho he]
      exact judgeQuarantine_to (by rw [hu]; rfl) (by rw [hu]; rfl)
    · have hfail : s.failOwner t.owner = s.enterFaulted .completionWrite := by rw [ho]; rfl
      rw [hfail]
      refine ⟨fun hf => ?_, fun hnf => ⟨_, rfl, ?_⟩⟩
      · rw [enterFaulted_of_faulted hf, quarantineEntry_write, ← hu, judgeQuarantine_of_faulted (by rw [hu]; exact hf)]
      · have := timeout_faults hnf .completionWrite .write j t
        rwa [quarantineEntry_write s, ← hu] at this
  · have hexec := exec_responseTimeout_late (d := .read) (id := j) (ht ▸ s.readEntry_fin j) hd hle
    rw [hexec]
    refine ⟨fun e i ho hring hs => ⟨_, rfl, ?_⟩, fun e ho hring hnf => ⟨_, rfl, ?_⟩, fun n l cmd ho hl he => ⟨_, rfl, ?_⟩,
      fun ho hd hlanes => ?_⟩
    · rw [slot_times_out hu ho hring hs]
      exact judgeQuarantine_to (by rw [hu]; rfl) (by rw [hu]; rfl)
    · have hfail : s.failOwner t.owner = (s.onRing 0 fun x => { x with inFlight := false }).enterFaulted .adminFetch := by
        rw [ho]
        exact slotFails_admin hring
      have := timeout_faults (s := s.onRing 0 fun x => { x with inFlight := false }) hnf .adminFetch .read j t
      rw [hfail, hu]
      rwa [quarantineEntry_read (s.onRing 0 fun x => { x with inFlight := false })] at this
    · rw [load_times_out hu ho hl he]
      refine judgeQuarantine_to ?_ ?_ <;> rw [hu] <;> split <;> rfl
    · have hfail : s.failOwner t.owner = s.withFault .setupRead := by
        rw [ho]
        exact State.enterFaulted_eq hlanes _ (by rw [hd]; decide)
      rw [hfail, judgeQuarantine_of_faulted (by rw [quarantineEntry_read]; rfl), quarantineEntry_read, hu]
      rfl

end Sys2Proof.Proofs
end

section
/-! Records that a host lays out, and how they read (R209, R210): O55. -/
namespace Sys2Proof.Proofs
open Sys2Proof.Machine

/-! ## Fields as values -/

theorem ofNat_leField_eq {w n : Nat} (h : 256 ^ n = 2 ^ w) (r : List Byte) (o : Nat) (v : BitVec w) :
    BitVec.ofNat w (leField r o n) = v ↔ leField r o n = v.toNat := by
  rw [← BitVec.toNat_inj, BitVec.toNat_ofNat, Nat.mod_eq_of_lt (h ▸ leField_lt r o n)]

theorem getD_eq_iff (r : List Byte) (k : Nat) (v : Byte) : r.getD k 0 = v ↔ byteAt r k = v.toNat :=
  BitVec.toNat_inj.symm

theorem streamOf_eq_some (v : Nat) (i : StreamId) : streamOf v = some i ↔ v = i.val := by
  unfold streamOf
  split
  · exact Option.some_inj.trans Fin.ext_iff
  · exact iff_of_false (fun h => by cases h) (by omega)

theorem groupOf_eq_some (v : Nat) (g : GroupId) : groupOf v = some g ↔ v = g.val + 1 := by
  unfold groupOf
  split
  · rw [Option.some_inj, Fin.ext_iff]
    exact (by omega : v - 1 = g.val ↔ v = g.val + 1)
  · exact iff_of_false (fun h => by cases h) (by omega)

/-- The flag bit of a byte that is 0 or 1. -/
theorem flag_eq_iff {v : Nat} (h : v = 0 ∨ v = 1) (b : Bool) : (v == 1) = b ↔ v = b.toNat := by
  obtain rfl | rfl := h
  · cases b <;> decide
  · cases b <;> decide

theorem byteAt_first (x : Byte) (l : List Byte) : byteAt (x :: l) 0 = x.toNat := rfl

theorem byteAt_zeros {a : List Byte} {k : Nat} (h : a.length ≤ k) (n : Nat) : byteAt (a ++ zeros n) k = 0 := by
  obtain ⟨m, rfl⟩ := Nat.exists_eq_add_of_le h
  exact (byteAt_skip a (zeros n) m).trans (byteAt_replicate n m)

/-! ## Admin records -/

/-- What every admin record with that code has, where the flag bit is used as said and the arguments end before `n`. -/
def isCommand (r : List Byte) (code : Nat) (flag : Bool) (n : Nat) : Prop :=
  byteAt r 0 = code ∧ (byteAt r 2 = 0 ∨ (flag = true ∧ byteAt r 2 = 1)) ∧ byteAt r 3 = 0 ∧ ∀ k, n ≤ k → k < 64 → byteAt r k = 0

theorem isCommand_iff (r : List Byte) (code : Nat) (flag : Bool) (n : Nat) :
    isCommand r code flag n ↔ byteAt r 0 = code ∧ unusedFrom r flag n = true := by
  unfold isCommand unusedFrom
  simp only [Bool.and_eq_true, Bool.or_eq_true, beq_iff_eq, zeroAt_iff, and_assoc]

/-- The code of a command (R210). -/
def opCode : AdminOp → Nat
  | .createRing .. => 1 | .deleteRing _ => 2 | .configureStream .. => 3 | .loadDefects .. => 4 | .abortStream _ => 5
  | .resumeStream .. => 6 | .openGroup .. => 7 | .closeGroup _ => 8 | .readStats .. => 9

theorem readAdminOp_code {r : List Byte} {op : AdminOp} (h : readAdminOp r = some op) : byteAt r 0 = opCode op := by
  unfold readAdminOp at h
  dsimp only at h
  split at h
  case h_10 => cases h
  all_goals
    next hcode =>
    obtain ⟨-, h⟩ := Option.ite_none_right_eq_some.mp h
    obtain ⟨_, -, rfl⟩ := Option.map_eq_some_iff.mp h
    exact hcode

theorem exists_eq_middle {α : Type} {P : α → Prop} {Q : Prop} {i : α} : (∃ a, P a ∧ a = i ∧ Q) ↔ P i ∧ Q :=
  ⟨fun ⟨_, hp, hi, hq⟩ => ⟨hi ▸ hp, hq⟩, fun ⟨hp, hq⟩ => ⟨i, hp, rfl, hq⟩⟩

/-- A row of the table of commands: the code names it, and what else the record must say. -/
theorem row_iff {r : List Byte} {op : AdminOp} {flag : Bool} {n : Nat} {Q : Prop}
    (h : byteAt r 0 = opCode op → (readAdminOp r = some op ↔ unusedFrom r flag n = true ∧ Q)) :
    readAdminOp r = some op ↔ isCommand r (opCode op) flag n ∧ Q := by
  rw [isCommand_iff, and_assoc]
  exact ⟨fun hop => ⟨readAdminOp_code hop, (h (readAdminOp_code hop)).mp hop⟩, fun ⟨hcode, hq⟩ => (h hcode).mpr hq⟩

theorem flagged_iff {r : List Byte} {n : Nat} (h : unusedFrom r true n = true) (b : Bool) :
    (byteAt r 2 == 1) = b ↔ byteAt r 2 = b.toNat := by
  unfold unusedFrom at h
  simp only [Bool.and_eq_true, Bool.or_eq_true, beq_iff_eq, true_and] at h
  exact flag_eq_iff h.1.1 b

theorem readProfileFields_eq (r : List Byte) (f : ProfileFields) : readProfileFields r = f ↔
    byteAt r 8 = f.profileId.toNat ∧ byteAt r 9 = f.layout.toNat
      ∧ byteAt r 10 = f.maxLag.toNat ∧ byteAt r 11 = f.quota.toNat ∧ leField r 12 2 = f.lineLength.toNat
      ∧ leField r 14 2 = f.frameHeight.toNat ∧ byteAt r 16 = f.mergeRatio.toNat ∧ byteAt r 17 = f.settleFrames.toNat
      ∧ byteAt r 18 = f.referenceRows.toNat ∧ byteAt r 19 = f.gapTimeout.toNat ∧ leField r 20 2 = f.knee.toNat
      ∧ leField r 22 2 = f.fixedBlack.toNat := by
  obtain ⟨id, layout, lag, quota, len, height, ratio, settle, rows, gap, knee, black⟩ := f
  simp only [readProfileFields, ProfileFields.mk.injEq, getD_eq_iff, ofNat_leField_eq (w := 16) (n := 2) rfl]

/-- Every admin record as an `↔` (R156, R210). -/
theorem readAdminOp_rows (r : List Byte) :
    (∀ i base log, readAdminOp r = some (.createRing i base log) ↔ isCommand r 1 false 17 ∧ byteAt r 1 = i.val
      ∧ leField r 8 8 = base.toNat ∧ byteAt r 16 = log)
    ∧ (∀ i, readAdminOp r = some (.deleteRing i) ↔ isCommand r 2 false 8 ∧ byteAt r 1 = i.val)
    ∧ (∀ i on f, readAdminOp r = some (.configureStream i on f) ↔ isCommand r 3 true 24 ∧ byteAt r 1 = i.val
      ∧ byteAt r 2 = on.toNat ∧ readProfileFields r = f)
    ∧ (∀ i list count, readAdminOp r = some (.loadDefects i list count) ↔ isCommand r 4 false 18 ∧ byteAt r 1 = i.val
      ∧ leField r 8 8 = list.toNat ∧ leField r 16 2 = count)
    ∧ (∀ i, readAdminOp r = some (.abortStream i) ↔ isCommand r 5 false 8 ∧ byteAt r 1 = i.val)
    ∧ (∀ i skip, readAdminOp r = some (.resumeStream i skip) ↔ isCommand r 6 true 8 ∧ byteAt r 1 = i.val
      ∧ byteAt r 2 = skip.toNat)
    ∧ (∀ g mask timeout, readAdminOp r = some (.openGroup g mask timeout) ↔ isCommand r 7 false 12 ∧ byteAt r 1 = g.val + 1
      ∧ byteAt r 8 = mask.toNat ∧ byteAt r 9 = 0 ∧ leField r 10 2 = timeout)
    ∧ (∀ g, readAdminOp r = some (.closeGroup g) ↔ isCommand r 8 false 8 ∧ byteAt r 1 = g.val + 1)
    ∧ (∀ i block clear, readAdminOp r = some (.readStats i block clear) ↔ isCommand r 9 true 16 ∧ byteAt r 1 = i.val
      ∧ leField r 8 8 = block.toNat ∧ byteAt r 2 = clear.toNat) := by
  refine ⟨fun i base log => row_iff ?_, fun i => row_iff ?_, fun i on f => row_iff ?_, fun i list count => row_iff ?_,
    fun i => row_iff ?_, fun i skip => row_iff ?_, fun g mask timeout => row_iff ?_, fun g => row_iff ?_,
    fun i block clear => row_iff ?_⟩
  all_goals
    intro hcode
    simp only [opCode] at hcode
    simp only [readAdminOp, hcode, Option.ite_none_right_eq_some, Option.map_eq_some_iff, streamOf_eq_some, groupOf_eq_some,
      AdminOp.createRing.injEq, AdminOp.deleteRing.injEq, AdminOp.configureStream.injEq, AdminOp.loadDefects.injEq,
      AdminOp.abortStream.injEq, AdminOp.resumeStream.injEq, AdminOp.openGroup.injEq, AdminOp.closeGroup.injEq,
      AdminOp.readStats.injEq, ofNat_leField_eq (w := 64) (n := 8) rfl, getD_eq_iff, exists_eq_right, exists_eq_middle,
      Bool.and_eq_true, beq_iff_eq]
  case refine_3 | refine_6 | refine_9 => exact and_congr_right fun h => by rw [flagged_iff h]
  case refine_7 => tauto

/-- The target, the flag and the end of the arguments of a command's record (R210). -/
def opTarget : AdminOp → Nat
  | .createRing i .. | .deleteRing i | .configureStream i .. | .loadDefects i .. | .abortStream i | .resumeStream i _
  | .readStats i .. => i.val
  | .openGroup g .. | .closeGroup g => g.val + 1

def opFlag : AdminOp → Bool
  | .configureStream _ flag _ | .resumeStream _ flag | .readStats _ _ flag => flag
  | .createRing .. | .deleteRing _ | .loadDefects .. | .abortStream _ | .openGroup .. | .closeGroup _ => false

def opEnd : AdminOp → Nat
  | .createRing .. => 17
  | .configureStream .. => 24
  | .loadDefects .. => 18
  | .openGroup .. => 12
  | .readStats .. => 16
  | .deleteRing _ | .abortStream _ | .resumeStream .. | .closeGroup _ => 8

theorem adminRecord_head (tag : Word) (op : AdminOp) : ∃ rest,
    adminRecord tag op = adminHead (BitVec.ofNat 8 (opCode op)) (opTarget op) (opFlag op) tag ++ rest := by
  cases op
  all_goals
    simp only [adminRecord, List.append_assoc]
    exact ⟨_, rfl⟩

theorem adminRecord_zeros (tag : Word) (op : AdminOp) {k : Nat} (h : opEnd op ≤ k) : byteAt (adminRecord tag op) k = 0 := by
  cases op
  all_goals exact byteAt_zeros (Nat.le_trans (by simp [adminHead, length_leBytes, opEnd]) h) _

/-- What a host lays out for a command is that command's record (R210). -/
theorem isCommand_adminRecord (tag : Word) (op : AdminOp) {used : Bool} (h : opFlag op = true → used = true) :
    isCommand (adminRecord tag op) (opCode op) used (opEnd op)
      ∧ byteAt (adminRecord tag op) 1 = opTarget op ∧ byteAt (adminRecord tag op) 2 = (opFlag op).toNat
      ∧ slotTag (adminRecord tag op) = tag := by
  obtain ⟨rest, hr⟩ := adminRecord_head tag op
  have hflag : byteAt (adminRecord tag op) 2 = (opFlag op).toNat := by
    rw [hr]
    cases opFlag op <;> rfl
  have hcode : opCode op < 256 := by cases op <;> simp only [opCode] <;> decide
  have htarget : opTarget op < 256 := by cases op <;> simp only [opTarget] <;> omega
  refine ⟨⟨?_, ?_, by rw [hr]; rfl, fun k hk _ => adminRecord_zeros tag op hk⟩, ?_, hflag, ?_⟩
  · rw [hr]
    exact ofNat_toNat_small hcode
  · rw [hflag]
    cases hf : opFlag op
    · exact .inl rfl
    · exact .inr ⟨h hf, rfl⟩
  · rw [hr]
    exact ofNat_toNat_small htarget
  · unfold slotTag
    rw [ofNat_leField_eq (w := 32) (n := 4) rfl, hr]
    simp [adminHead, leField_cons, leField_here, toNat_lt_word]

/-- An admin record reads back as its command (R210). -/
theorem readAdminOp_adminRecord (tag : Word) (op : AdminOp) (h : op.fits = true) : readAdminOp (adminRecord tag op) = some op := by
  obtain ⟨hcreate, hdelete, hconfigure, hload, habort, hresume, hopen, hclose, hread⟩ := readAdminOp_rows (adminRecord tag op)
  have hcommand := fun used => isCommand_adminRecord tag op (used := used)
  cases op with
  | createRing i base log =>
    obtain ⟨hc, ht, -⟩ := hcommand false id
    refine (hcreate i base log).mpr ⟨hc, ht, ?_, ?_⟩
    · simp [adminRecord, adminHead, leField_cons, leField_after, leField_here, Nat.mod_eq_of_lt base.isLt]
    · have hbyte : byteAt (adminRecord tag (.createRing i base log)) 16 = (BitVec.ofNat 8 log).toNat := rfl
      exact hbyte.trans (ofNat_toNat_small (of_decide_eq_true h))
  | deleteRing i =>
    obtain ⟨hc, ht, -⟩ := hcommand false id
    exact (hdelete i).mpr ⟨hc, ht⟩
  | configureStream i on f =>
    obtain ⟨hc, ht, hf, -⟩ := hcommand true fun _ => rfl
    refine (hconfigure i on f).mpr ⟨hc, ht, hf, (readProfileFields_eq ..).mpr ⟨rfl, rfl, rfl, rfl, ?_, ?_, rfl, rfl, rfl, rfl, ?_, ?_⟩⟩
    all_goals simp [adminRecord, adminHead, leField_cons, leField_after, leField_here, toNat_lt_half]
  | loadDefects i list count =>
    obtain ⟨hc, ht, -⟩ := hcommand false id
    have hcount : count < 65536 := of_decide_eq_true h
    refine (hload i list count).mpr ⟨hc, ht, ?_, ?_⟩
    all_goals simp [adminRecord, adminHead, leField_cons, leField_after, leField_here, Nat.mod_eq_of_lt list.isLt, hcount]
  | abortStream i =>
    obtain ⟨hc, ht, -⟩ := hcommand false id
    exact (habort i).mpr ⟨hc, ht⟩
  | resumeStream i skip =>
    obtain ⟨hc, ht, hf, -⟩ := hcommand true fun _ => rfl
    exact (hresume i skip).mpr ⟨hc, ht, hf⟩
  | openGroup g mask timeout =>
    obtain ⟨hc, ht, -⟩ := hcommand false id
    have htimeout : timeout < 65536 := of_decide_eq_true h
    refine (hopen g mask timeout).mpr ⟨hc, ht, rfl, rfl, ?_⟩
    simp [adminRecord, adminHead, leField_cons, leField_after, leField_here, htimeout]
  | closeGroup g =>
    obtain ⟨hc, ht, -⟩ := hcommand false id
    exact (hclose g).mpr ⟨hc, ht⟩
  | readStats i block clear =>
    obtain ⟨hc, ht, hf, -⟩ := hcommand true fun _ => rfl
    refine (hread i block clear).mpr ⟨hc, ht, ?_, hf⟩
    simp [adminRecord, adminHead, leField_cons, leField_after, leField_here, Nat.mod_eq_of_lt block.isLt]

/-! ## Request records -/

theorem bitsByte_bits (a b c d : Bool) : (bitsByte a b c d).toNat < 16 ∧ (bitsByte a b c d).toNat.testBit 0 = a
    ∧ (bitsByte a b c d).toNat.testBit 1 = b ∧ (bitsByte a b c d).toNat.testBit 2 = c
    ∧ (bitsByte a b c d).toNat.testBit 3 = d := by
  revert a b c d
  decide

theorem toNat_groupField (g : Option GroupId) : (groupField g).toNat ≤ 8 ∧ groupOf (groupField g).toNat = g
    ∧ ((groupField g).toNat = 0 ↔ g = none) := by
  revert g
  decide

/-- The bytes and fields of a CAPTURE request's record (R209). -/
theorem requestRecord_fields (q : Request) : byteAt (requestRecord q) 0 = 1
    ∧ byteAt (requestRecord q) 1 = q.assembly.code.toNat ∧ byteAt (requestRecord q) 2 = q.format.code.toNat
    ∧ byteAt (requestRecord q) 3 = q.selector.code.toNat ∧ byteAt (requestRecord q) 10 = (groupField q.group).toNat
    ∧ byteAt (requestRecord q) 11 = (bitsByte q.repair q.subtract q.acceptUnsettled q.notify).toNat
    ∧ leField (requestRecord q) 4 4 = q.tag.toNat ∧ leField (requestRecord q) 8 2 = q.number.toNat
    ∧ leField (requestRecord q) 12 2 = q.deadline % 65536 ∧ leField (requestRecord q) 14 2 = q.top % 65536
    ∧ leField (requestRecord q) 16 2 = q.rows % 65536 ∧ leField (requestRecord q) 18 2 = q.left % 65536
    ∧ leField (requestRecord q) 20 2 = q.cols % 65536 ∧ leField (requestRecord q) 24 4 = q.pitch % 4294967296
    ∧ leField (requestRecord q) 32 8 = q.buffer.toNat ∧ leField (requestRecord q) 40 8 = q.length % 18446744073709551616
    ∧ leField (requestRecord q) 48 8 = q.plane2.toNat := by
  have hbuffer := Nat.mod_eq_of_lt q.buffer.isLt
  have hplane := Nat.mod_eq_of_lt q.plane2.isLt
  refine ⟨?_, ?_, ?_, ?_, ?_, ?_, ?_, ?_, ?_, ?_, ?_, ?_, ?_, ?_, ?_, ?_, ?_⟩
  all_goals simp [requestRecord, zeros, byteAt_first, byteAt_cons, byteAt_after, leField_cons, leField_after, leField_here,
    toNat_lt_half, toNat_lt_word, hbuffer, hplane]

/-- The zero bytes of a CAPTURE request's record (R209, R12). -/
theorem requestRecord_zeros (q : Request) {k : Nat} (h : k = 22 ∨ k = 23 ∨ (28 ≤ k ∧ k < 32) ∨ (56 ≤ k ∧ k < 64)) :
    byteAt (requestRecord q) k = 0 := by
  rcases (by omega : (k = 22 ∨ k = 23 ∨ k = 28 ∨ k = 29 ∨ k = 30 ∨ k = 31) ∨ 56 ≤ k) with h | h
  · rcases h with rfl | rfl | rfl | rfl | rfl | rfl
    all_goals simp [requestRecord, zeros, List.replicate_succ, byteAt_first, byteAt_cons, byteAt_after]
  · exact byteAt_zeros (Nat.le_trans (by simp [length_leBytes, zeros]) h) 8

/-- The fields of a CAPTURE request read back from its record (R209). -/
theorem readRequest_record (q : Request) (hk : q.kind = .capture) (hfits : q.fits = true) (hdeadline : q.deadline < 65536)
    (hlength : q.length < 2 ^ 64) : readRequest q.entry .capture (requestRecord q) = q := by
  obtain ⟨htop, hrows, hrows', -, hleft, -, -, hcols, -, -, -, -, hpitch, -⟩ := (fits_iff q).mp hfits
  obtain ⟨-, h1, h2, h3, h10, h11, htag, hnumber, hfdeadline, hftop, hfrows, hfleft, hfcols, hfpitch, hfbuffer, hflength, hfplane⟩ :=
    requestRecord_fields q
  obtain ⟨-, hb0, hb1, hb2, hb3⟩ := bitsByte_bits q.repair q.subtract q.acceptUnsettled q.notify
  have hassembly : (assemblyOf q.assembly.code.toNat).getD .plain = q.assembly := by cases q.assembly <;> rfl
  have hformat : (formatOf q.format.code.toNat).getD .u16 = q.format := by cases q.format <;> rfl
  have hselector : (selectorOf q.selector.code.toNat).getD .next = q.selector := by cases q.selector <;> rfl
  unfold readRequest slotTag slotNotify
  rw [h1, h2, h3, h10, h11, htag, hnumber, hfdeadline, hftop, hfrows, hfleft, hfcols, hfpitch, hfbuffer, hflength, hfplane,
    hb0, hb1, hb2, hb3, hassembly, hformat, hselector, (toNat_groupField q.group).2.1, Nat.mod_eq_of_lt hdeadline,
    Nat.mod_eq_of_lt (show q.length < 18446744073709551616 from hlength), Nat.mod_eq_of_lt (by omega : q.top < 65536), Nat.mod_eq_of_lt (by omega : q.rows < 65536),
    Nat.mod_eq_of_lt (by omega : q.left < 65536), Nat.mod_eq_of_lt (by omega : q.cols < 65536),
    Nat.mod_eq_of_lt (by omega : q.pitch < 4294967296)]
  simp only [BitVec.ofNat_toNat, BitVec.setWidth_eq, ← hk]

/-- A CAPTURE request that passes its checks reads back from its record (R12, R209). -/
theorem validateRequest_record (q : Request) (hk : q.kind = .capture) (hfits : q.fits = true)
    (hnext : q.selector = .next → q.number = 0) (hgroup : q.group ≠ none → q.selector = .next) (hdeadline : q.deadline < 65536)
    (hlength : q.length < 2 ^ 64) : validateRequest q.entry (requestRecord q) = some q := by
  have hread := readRequest_record q hk hfits hdeadline hlength
  obtain ⟨h0, h1, h2, h3, h10, h11, -, hnumber, -⟩ := requestRecord_fields q
  have hselector : q.selector.code.toNat = 0 ↔ q.selector = .next := by cases q.selector <;> decide
  have hvalid : validCapture (requestRecord q) (readRequest q.entry .capture (requestRecord q)) = true := by
    rw [validCapture_iff, h1, h2, h3, h10, h11, hnumber, hread, hselector]
    refine ⟨?_, ?_, ?_, fun h => ?_, (toNat_groupField q.group).1, fun h => hgroup ?_, (bitsByte_bits ..).1, hfits, fun k hk =>
      requestRecord_zeros q hk⟩
    · cases q.assembly <;> decide
    · cases q.format <;> decide
    · cases q.selector <;> decide
    · rw [hnext h]
      rfl
    · rwa [Ne, ← (toNat_groupField q.group).2.2]
  unfold validateRequest
  rw [if_pos h0]
  dsimp only
  rw [if_pos hvalid, hread]

/-- The record of a MARK passes its checks (R12, R209). -/
theorem validateRequest_mark (e : EntryId) (tag : Word) (notify : Bool) :
    validateRequest e (markRecord tag notify) = some (readRequest e .mark (markRecord tag notify))
      ∧ slotTag (markRecord tag notify) = tag ∧ slotNotify (markRecord tag notify) = notify := by
  have h11 : byteAt (markRecord tag notify) 11 = (bitsByte false false false notify).toNat := by
    simp [markRecord, zeros, List.replicate_succ, byteAt_first, byteAt_cons, byteAt_after]
  have hvalid : validMark (markRecord tag notify) = true := by
    rw [validMark_iff, h11]
    refine ⟨by cases notify <;> decide, fun k h1 _ h4 hne => ?_⟩
    rcases (by omega : (k = 1 ∨ k = 2 ∨ k = 3 ∨ k = 8 ∨ k = 9 ∨ k = 10) ∨ 12 ≤ k) with h | h
    · rcases h with rfl | rfl | rfl | rfl | rfl | rfl
      all_goals simp [markRecord, zeros, List.replicate_succ, byteAt_first, byteAt_cons, byteAt_after]
    · exact byteAt_zeros (Nat.le_trans (by simp [length_leBytes, zeros]) h) 52
  refine ⟨?_, ?_, ?_⟩
  · have h0 : byteAt (markRecord tag notify) 0 = 2 := rfl
    unfold validateRequest
    rw [if_neg (by rw [h0]; decide), if_pos h0, if_pos hvalid]
  · unfold slotTag
    rw [ofNat_leField_eq (w := 32) (n := 4) rfl]
    simp [markRecord, leField_cons, leField_here, toNat_lt_word]
  · unfold slotNotify
    rw [h11]
    exact (bitsByte_bits ..).2.2.2.2

/-- Settles O55: the rows of the admin table, and the records as they are laid out. -/
theorem recordsReadBack : Obligations.RecordsReadBack := by
  unfold Obligations.RecordsReadBack
  refine ⟨validateRequest_record, fun e tag notify => ?_, fun tag op h =>
    ⟨readAdminOp_adminRecord tag op h, (isCommand_adminRecord tag op (used := true) fun _ => rfl).2.2.2⟩, fun r is his => ?_⟩
  · obtain ⟨hread, htag, hnotify⟩ := validateRequest_mark e tag notify
    exact ⟨_, hread, rfl, rfl, htag, hnotify⟩
  · obtain rfl : is = isCommand r := funext fun code => funext fun flag => funext fun n => propext (his code flag n)
    have hrows := readAdminOp_rows r
    simp only [readProfileFields_eq] at hrows
    exact hrows

end Sys2Proof.Proofs
end

section
/-! The pixels of a line: defect repair, black level, crop and the three row formats (section 4): O39, O40. -/
namespace Sys2Proof.Proofs
open Sys2Proof.Machine

/-! ## Crop and formats -/

theorem crop_getElem {left cols j : Nat} (px : List Pixel) (h : j < cols) : (crop left cols px)[j]? = some (px[left + j]?.getD 0) := by
  unfold crop
  dsimp only
  rw [List.getElem?_append, List.length_take, List.length_drop]
  split
  · rw [List.getElem?_take_of_lt h, List.getElem?_drop, List.getElem?_eq_getElem (by omega)]
    rfl
  · rw [List.getElem?_replicate, if_pos (by omega), List.getElem?_eq_none (by omega)]
    rfl

theorem length_crop (left cols : Nat) (px : List Pixel) : (crop left cols px).length = cols := by
  unfold crop
  simp

theorem byteAt_eq {r : List Byte} {k : Nat} {v : Byte} (h : r[k]? = some v) : byteAt r k = v.toNat := by
  unfold byteAt
  rw [List.getD_eq_getElem?_getD, h]
  rfl

/-- Two bytes a column (R87). -/
theorem leField_u16 {px : List Pixel} {j : Nat} {v : Pixel} (h : px[j]? = some v) :
    leField (px.flatMap fun w : Pixel => leBytes 2 w.toNat) (2 * j) 2 = v.toNat := by
  induction px generalizing j with
  | nil => cases h
  | cons x px ih =>
    rw [List.flatMap_cons]
    cases j with
    | zero =>
      obtain rfl : x = v := Option.some.inj h
      rw [leField_here]
      exact Nat.mod_eq_of_lt x.isLt
    | succ j =>
      rw [leField_after _ _ _ (by omega), Nat.mul_succ, Nat.add_sub_cancel, ih h]

/-- The three bytes of a pair (R87). -/
theorem leField_packPair {a b : Nat} (ha : a < 4096) (hb : b < 4096) (rest : List Byte) :
    leField (packPair a b ++ rest) 0 3 = a + 4096 * b := by
  have hfield : leField (packPair a b ++ rest) 0 3
      = a % 256 + 256 * ((a / 256 % 16 + 16 * (b % 16)) % 256 + 256 * (b / 16 % 256)) := by
    simp [packPair, byteOf, leField, byteAt]
  omega

theorem toNat_shiftRight_lt (v : Pixel) : (v >>> 4).toNat = v.toNat / 16 ∧ v.toNat / 16 < 4096 := by
  refine ⟨by rw [BitVec.toNat_ushiftRight, Nat.shiftRight_eq_div_pow], ?_⟩
  have := v.isLt
  omega

/-- Two columns of 12 bits in three bytes (R87). -/
theorem packP12_pairs (px : List Pixel) (h : px.length % 2 = 0) : 2 * (packP12 px).length = 3 * px.length
    ∧ ∀ (m : Nat) (v w : Pixel), px[2 * m]? = some v → px[2 * m + 1]? = some w →
      leField (packP12 px) (3 * m) 3 = v.toNat / 16 + 4096 * (w.toNat / 16) := by
  induction px using packP12.induct with
  | case1 a b rest ih =>
    obtain ⟨hlen, hfield⟩ := ih (by simp only [List.length_cons] at h; omega)
    obtain ⟨ha, ha'⟩ := toNat_shiftRight_lt a
    obtain ⟨hb, hb'⟩ := toNat_shiftRight_lt b
    refine ⟨by simp [packP12, packPair]; omega, fun m v w hv hw => ?_⟩
    rw [packP12, ha, hb]
    cases m with
    | zero =>
      obtain rfl : a = v := Option.some.inj hv
      obtain rfl : b = w := Option.some.inj hw
      exact leField_packPair ha' hb' _
    | succ m =>
      have := leField_skip (packPair (a.toNat / 16) (b.toNat / 16)) (packP12 rest) (3 * m) 3
      rw [Nat.mul_succ, Nat.add_comm]
      exact this.trans (hfield m v w hv hw)
  | case2 a => cases h
  | case3 => exact ⟨rfl, fun m v w hv => by cases hv⟩

/-- Settles O40: column by column. -/
theorem rowBytes : Obligations.RowBytes := by
  unfold Obligations.RowBytes
  refine ⟨fun left cols j px => ⟨length_crop .., crop_getElem px⟩, fun px j v h => ⟨?_, leField_u16 h, List.length_map .., ?_, fun heven =>
    ⟨(packP12_pairs px heven).1, ?_⟩⟩⟩
  · simp [convertRow, length_leBytes, Nat.mul_comm]
  · have hv := v.isLt
    have hbyte : (convertRow .u8 px)[j]? = some (byteOf (v >>> 8).toNat) := by
      rw [convertRow, List.getElem?_map, h]
      rfl
    rw [byteAt_eq hbyte]
    unfold byteOf
    rw [BitVec.toNat_ofNat, BitVec.toNat_ushiftRight, Nat.shiftRight_eq_div_pow]
    omega
  · rintro m w rfl hw
    exact (packP12_pairs px heven).2 m v w h hw

/-! ## Defect repair -/

theorem repairFrom_get (t : List DefectEntry) (line : Nat) (px : List Pixel) (c : Nat) (rest : List Pixel) :
    (repairFrom t line px c rest).length = rest.length
    ∧ ∀ (j : Nat) (v : Pixel), rest[j]? = some v →
      (t.find? (fun b => b.row == line && b.column == c + j) = none → (repairFrom t line px c rest)[j]? = some v)
      ∧ ∀ d, t.find? (fun b => b.row == line && b.column == c + j) = some d →
        (repairFrom t line px c rest)[j]? = some (replacement d.method px (c + j) v) := by
  induction rest generalizing c with
  | nil => exact ⟨rfl, fun j v h => by cases h⟩
  | cons x rest ih =>
    obtain ⟨hlen, hget⟩ := ih (c + 1)
    refine ⟨congrArg (· + 1) hlen, fun j v h => ?_⟩
    cases j with
    | zero =>
      obtain rfl : x = v := Option.some.inj h
      rw [Nat.add_zero, repairFrom]
      exact ⟨fun hn => by rw [hn]; rfl, fun d hd => by rw [hd]; rfl⟩
    | succ j =>
      have := hget j v h
      rwa [Nat.add_right_comm] at this

theorem toNat_meanPixel (a b : Pixel) : (meanPixel a b).toNat = (a.toNat + b.toNat) / 2 := by
  have ha := a.isLt
  have hb := b.isLt
  exact (BitVec.toNat_ofNat ..).trans (Nat.mod_eq_of_lt (by omega))

/-! ## Black level -/

theorem blacks_on (b : Blacks) (f : Black → Black) (e : Exposure) :
    (b.on f e).of e = f (b.of e) ∧ ∀ z, z ≠ e → (b.on f e).of z = b.of z := by
  have hof : ∀ z, (b.on f e).of z = if z = e then f (b.of z) else b.of z := fun z => by cases e <;> cases z <;> rfl
  exact ⟨(hof e).trans (if_pos rfl), fun z hz => (hof z).trans (if_neg hz)⟩

theorem pixelSum_eq (px : List Pixel) : pixelSum px = (px.map (·.toNat)).sum := by
  unfold pixelSum
  rw [List.sum_eq_foldl, List.foldl_map]

theorem accumulate_none {b : Black} (h : b.value = none) (px : List Pixel) :
    b.accumulate px = ⟨b.sum + (px.map (·.toNat)).sum, b.count + px.length, b.value⟩ := by
  unfold Black.accumulate
  rw [h, ← pixelSum_eq]

/-- The value that a black measurement is fixed at (R83). -/
theorem fix_value (b : Black) (fixedBlack : Pixel) : ∃ w : Pixel, (b.fix fixedBlack).value = some w ∧ (∀ z, b.value = some z → w = z)
    ∧ (b.value = none → b.count = 0 → w = fixedBlack)
    ∧ (b.value = none → 0 < b.count → b.sum / b.count < 65536 → w.toNat = b.sum / b.count) := by
  unfold Black.fix
  cases hv : b.value with
  | some z => exact ⟨z, hv, fun _ h => Option.some.inj h, (fun h => by cases h), (fun h => by cases h)⟩
  | none =>
    refine ⟨_, rfl, (fun _ h => by cases h), fun _ hc => if_neg (by omega), fun _ hc hlt => ?_⟩
    rw [if_pos hc, BitVec.toNat_ofNat]
    exact Nat.mod_eq_of_lt hlt

theorem toNat_subPixel (v b : Pixel) : (subPixel v b).toNat = v.toNat - b.toNat := by
  unfold subPixel
  split
  · next h => exact (Nat.sub_eq_zero_of_le h.le).symm
  · bv_omega

section
variable {k : Capture} {line : Nat} {e : Exposure} {px : List Pixel}

theorem blacksAfter_eq (k : Capture) (line : Nat) (e : Exposure) (px : List Pixel) :
    (k.request.subtract = false → k.blacksAfter line e px = k.blacks)
    ∧ (k.request.subtract = true → line < k.profile.referenceRows → k.blacksAfter line e px = k.blacks.on (·.accumulate px) e)
    ∧ (k.request.subtract = true → k.profile.referenceRows ≤ line →
      k.blacksAfter line e px = k.blacks.on (·.fix k.profile.fixedBlack) e) := by
  unfold Capture.blacksAfter
  refine ⟨fun hs => ?_, fun hs hl => ?_, fun hs hl => ?_⟩
  · rw [hs]
    rfl
  · rw [hs, if_pos rfl, if_pos hl]
  · rw [hs, if_pos rfl, if_neg (by omega)]

theorem subtracted_off (h : k.request.subtract = false ∨ line < k.profile.referenceRows) : k.subtracted line e px = px := by
  unfold Capture.subtracted
  rw [if_neg]
  rw [Bool.and_eq_true, decide_eq_true_iff]
  rintro ⟨hs, hl⟩
  rcases h with h | h
  · rw [h] at hs
    cases hs
  · omega

theorem subtracted_on {w : Pixel} (hs : k.request.subtract = true) (hl : k.profile.referenceRows ≤ line)
    (h : ((k.blacksAfter line e px).of e).value = some w) : k.subtracted line e px = px.map (subPixel · w) := by
  unfold Capture.subtracted
  rw [if_pos (by rw [hs, decide_eq_true hl]; rfl), h]

end

/-- Settles O39: the repair of a column by its neighbours, the black value by its exposure. -/
theorem pixelValues : Obligations.PixelValues := by
  unfold Obligations.PixelValues
  refine ⟨fun t line c px v d => ?_, fun k line e px b hb => ?_⟩
  · obtain ⟨hlen, hget⟩ := repairFrom_get t line px 0 px
    rw [← repairLine] at hlen hget
    refine ⟨hlen, fun hv hn => ?_, fun hv hd => ?_⟩
    · refine (hget c v hv).1 (List.find?_eq_none.mpr fun b hb => ?_)
      rw [Nat.zero_add, Bool.and_eq_true, beq_iff_eq, beq_iff_eq]
      exact hn b hb
    · have hrep : (repairLine t line px)[c]? = some (replacement d.method px c v) := by
        have := (hget c v hv).2 d
        rw [Nat.zero_add] at this
        exact this hd
      rw [hrep]
      refine ⟨fun a b hc ha hb => ⟨_, rfl, ?_⟩, fun a hc ha hlen => ?_, fun b hc hb => ?_, fun hc hlen => ?_⟩
      · unfold replacement
        rw [if_pos hc, ha, hb]
        cases d.method
        · exact ⟨fun _ => toNat_meanPixel a b, (fun h => by cases h), (fun h => by cases h)⟩
        · exact ⟨(fun h => by cases h), fun _ => rfl, (fun h => by cases h)⟩
        · exact ⟨(fun h => by cases h), (fun h => by cases h), fun _ => rfl⟩
      · unfold replacement
        rw [if_pos hc, ha, List.getElem?_eq_none hlen]
      · unfold replacement
        rw [if_neg (by omega), hb]
      · unfold replacement
        rw [if_neg (by omega), List.getElem?_eq_none hlen]
  · obtain rfl := hb
    obtain ⟨hoff, hreference, hbeyond⟩ := blacksAfter_eq k line e px
    refine ⟨fun hs => ⟨hoff hs, subtracted_off (.inl hs)⟩, fun hs hl => ⟨subtracted_off (.inr hl), fun hv => ?_⟩, fun hs hl => ?_,
      fun z hz => ?_⟩
    · rw [hreference hs hl, (blacks_on k.blacks _ e).1, accumulate_none hv, hv]
    · obtain ⟨w, hw, hkept, hfixed, hmean⟩ := fix_value (k.blacks.of e) k.profile.fixedBlack
      have hvalue : ((k.blacksAfter line e px).of e).value = some w := by
        rw [hbeyond hs hl, (blacks_on k.blacks _ e).1, hw]
      refine ⟨w, hvalue, hkept, hfixed, hmean, ?_⟩
      rw [subtracted_on hs hl hvalue, List.map_map]
      exact List.map_congr_left fun v _ => toNat_subPixel v w
    · cases hs : k.request.subtract with
      | false => rw [hoff hs]
      | true =>
        rcases Nat.lt_or_ge line k.profile.referenceRows with hl | hl
        · rw [hreference hs hl, (blacks_on k.blacks _ e).2 z hz]
        · rw [hbeyond hs hl, (blacks_on k.blacks _ e).2 z hz]

end Sys2Proof.Proofs
end

section
/-! The words of a lane (section 3), outside RUN and in it: O29, O30. -/
namespace Sys2Proof.Proofs
open Sys2Proof.Machine

/-! ## One word -/

section
variable {s : State} {i : StreamId} {w : WordClass} {l m : Lane}

/-- A word that hands nothing over changes the lane alone. -/
theorem word_quiet (h : s.streams[i].lane.take s.streams[i].lineLength w = (m, [])) :
    s.word i w = s.withStream i { s.streams[i] with lane := m } := by
  unfold State.word State.laneStep
  rw [h]
  rfl

/-- A word that hands one item over: the lane changes, and the stream takes the item. -/
theorem word_item {x : LaneItem} (h : s.streams[i].lane.take s.streams[i].lineLength w = (m, [x])) :
    s.word i w = ((s.withStream i { s.streams[i] with lane := m }).takeItem i x).conclude := by
  unfold State.word State.laneStep
  rw [h]
  rfl

theorem word_items {x y : LaneItem} (h : s.streams[i].lane.take s.streams[i].lineLength w = (m, [x, y])) :
    s.word i w = (((s.withStream i { s.streams[i] with lane := m }).takeItem i x).takeItem i y).conclude := by
  unfold State.word State.laneStep
  rw [h]
  rfl

/-- A word that leaves the lane as it is does nothing. -/
theorem word_idle (h : s.streams[i].lane.take s.streams[i].lineLength w = (s.streams[i].lane, [])) : s.word i w = s :=
  (word_quiet h).trans (State.withStream_same s i)

theorem take_off (h : l.state = .off) (n : Nat) (w : WordClass) : l.take n w = (l, []) := by
  unfold Lane.take
  rw [h]

theorem take_run (h : l.state = .run) (n : Nat) (w : WordClass) : l.take n w = l.takeInRun n w := by
  unfold Lane.take
  rw [h]

end

theorem controlClass_illegal {i : StreamId} {code : Option Half} (h : (Instr.illegalWord i code).wellFormed = true) :
    controlClass code = .illegal := by
  cases code with
  | none => rfl
  | some c =>
    have hc : (c != idleCode && c != trainCode) = true := h
    rw [Bool.and_eq_true, bne_iff_ne, bne_iff_ne] at hc
    unfold controlClass
    dsimp only
    rw [if_neg hc.1, if_neg hc.2]

/-- An ILLEGAL word (R58). -/
theorem exec_illegalWord {i : StreamId} {code : Option Half} (h : (Instr.illegalWord i code).wellFormed = true) (s : State) :
    exec (.illegalWord i code) s = .next (s.word i .illegal) :=
  congrArg (fun w => Host.Outcome.next (s.word i w)) (controlClass_illegal h)

theorem take_search {l : Lane} (h : l.state = .search) (n : Nat) :
    l.take n .train = (if l.runCount < 63 then { l with runCount := l.runCount + 1 } else ⟨.aligned, 0, 0, .none⟩, [])
    ∧ ∀ w, w ≠ .train → l.take n w = ({ l with runCount := 0 }, []) := by
  unfold Lane.take
  rw [h]
  constructor
  · have hrun : Config.trainingRun ≤ l.runCount + 1 ↔ ¬l.runCount < 63 := by
      show 64 ≤ l.runCount + 1 ↔ _
      omega
    dsimp only
    by_cases hc : l.runCount < 63
    · rw [if_pos hc, if_neg (by rw [hrun, not_not]; exact hc)]
    · rw [if_neg hc, if_pos (hrun.mpr hc)]
  · intro w hw
    cases w with
    | train => exact absurd rfl hw
    | idle | data | illegal => rfl

/-- The relink raise of R33. -/
theorem linkUp_eq (x : StreamState) :
    x.linkUp = { x with relink := false, settle := if x.relink then max x.settle 1 else x.settle } := by
  unfold StreamState.linkUp
  by_cases h : x.relink = true
  · rw [if_pos h, if_pos h]
  · have hfalse : x.relink = false := Bool.eq_false_of_not_eq_true h
    rw [if_neg h, if_neg h, ← hfalse]

/-- Settles O29: the lane's states outside RUN, word by word. -/
theorem wordsOutsideRun : Obligations.WordsOutsideRun := by
  unfold Obligations.WordsOutsideRun
  rintro s i v code l hwf rfl
  refine ⟨fun h c hc => ?_, fun h => ⟨?_, fun c hc => ?_⟩, fun h => ⟨?_, ?_, ?_, ?_⟩⟩
  · have hidle : ∀ w, s.word i w = s := fun w => word_idle (take_off h _ w)
    simp only [List.mem_cons, List.not_mem_nil, or_false] at hc
    rcases hc with rfl | rfl | rfl | rfl
    all_goals exact congrArg Host.Outcome.next (hidle _)
  · exact congrArg Host.Outcome.next (word_quiet (take_search h _).1)
  · have hword : ∀ w, w ≠ .train → s.word i w = s.withStream i { s.streams[i] with lane := { s.streams[i].lane with runCount := 0 } } :=
      fun w hw => word_quiet ((take_search h _).2 w hw)
    simp only [List.mem_cons, List.not_mem_nil, or_false] at hc
    rcases hc with rfl | rfl | rfl
    · exact congrArg Host.Outcome.next (hword .idle (by decide))
    · exact congrArg Host.Outcome.next (hword (.data v) (by simp))
    · exact (exec_illegalWord hwf s).trans (congrArg Host.Outcome.next (hword .illegal (by decide)))
  · exact congrArg Host.Outcome.next (word_idle (by unfold Lane.take; rw [h]))
  · exact congrArg Host.Outcome.next (word_idle (by unfold Lane.take; rw [h]))
  · exact (exec_illegalWord hwf s).trans (congrArg Host.Outcome.next (word_quiet (by unfold Lane.take; rw [h]; rfl)))
  · refine congrArg Host.Outcome.next ((word_item (x := .linkUp) (m := ⟨.run, 0, 0, .header [v]⟩) (by unfold Lane.take; rw [h])).trans ?_)
    refine congrArg State.conclude ?_
    unfold State.takeItem
    rw [State.onStream_eq, State.withStream_get, State.withStream_twice, linkUp_eq]

/-! ## Words in RUN -/

section
variable {s : State} {i : StreamId} {f : Frame} {c : ContextId} {k : Capture}

theorem boundTo_withLane (h : s.boundTo i f c k) (m : Lane) : (s.withStream i { s.streams[i] with lane := m }).boundTo i f c k :=
  boundTo_withStream h rfl rfl

theorem flushesAtOnce_withLane (h : s.flushesAtOnce i c k) (m : Lane) :
    (s.withStream i { s.streams[i] with lane := m }).flushesAtOnce i c k := by
  refine ⟨h.written, h.kept, h.split, fun d n hd hn => h.alone d n hd ?_⟩
  rw [State.withStream_get] at hn
  exact hn

end

/-- The lane in ALIGNED, as a training run and a retrain leave it (R60, R70). -/
abbrev aligned : Lane := ⟨.aligned, 0, 0, .none⟩

/-- A retrain (R70). -/
theorem word_retrain {s : State} {i : StreamId} (h : s.streams[i].lane.state = .run) :
    exec (.trainWord i) s = .next ((s.withStream i { s.streams[i] with lane := aligned }).closeFrame i .truncated).conclude :=
  congrArg Host.Outcome.next (word_item (x := .retrain) (take_run h _ .train))

/-- Settles O30: the phases of a lane in RUN, and the retrain by how the frame in progress closes. -/
theorem wordsInRun : Obligations.WordsInRun := by
  unfold Obligations.WordsInRun
  rintro s i v l rfl hrun put hput
  have hquiet : ∀ w m, s.streams[i].lane.takeInRun s.streams[i].lineLength w = (m, []) → s.word i w = put m := fun w m h =>
    (word_quiet ((take_run hrun _ w).trans h)).trans (hput m).symm
  have hsame : ∀ w, s.streams[i].lane.takeInRun s.streams[i].lineLength w = (s.streams[i].lane, []) → s.word i w = s := fun w h =>
    word_idle ((take_run hrun _ w).trans h)
  have hput_get : ∀ m, (put m).streams[i] = { s.streams[i] with lane := m } := fun m => by
    rw [hput, State.withStream_get]
  refine ⟨fun hp => ⟨?_, ?_⟩, fun ws hp hlen => ?_, fun p hp => ⟨?_, fun hr => ?_⟩, fun hp => ⟨?_, ?_⟩, fun hf => ?_,
    fun f hf hb => ?_, fun f c k hb hflush => ?_, fun f c a k m hb ha hm hpending => ?_⟩
  · exact congrArg Host.Outcome.next (hsame .idle (by unfold Lane.takeInRun; rw [hp]))
  · exact congrArg Host.Outcome.next (hquiet (.data v) _ (by unfold Lane.takeInRun; rw [hp]))
  · refine congrArg Host.Outcome.next (hquiet (.data v) _ ?_)
    unfold Lane.takeInRun
    rw [hp]
    dsimp only
    unfold Lane.headerWord
    split
    · exact absurd hlen (Nat.lt_irrefl 3)
    · rfl
  · exact congrArg Host.Outcome.next (hquiet .idle _ (by unfold Lane.takeInRun; rw [hp]))
  · refine congrArg Host.Outcome.next (hquiet (.data v) _ ?_)
    unfold Lane.takeInRun
    rw [hp]
    dsimp only
    unfold Lane.payloadWord
    rw [if_neg (by omega)]
  · exact congrArg Host.Outcome.next (hsame (.data v) (by unfold Lane.takeInRun; rw [hp]))
  · exact congrArg Host.Outcome.next (hquiet .idle _ (by unfold Lane.takeInRun; rw [hp]))
  · rw [word_retrain hrun, State.closeFrame_none (by rw [State.withStream_get]; exact hf), hput]
  · rw [word_retrain hrun, State.closeFrame_unbound (by rw [State.withStream_get]; exact hf) hb, State.withStream_get, State.withStream_twice]
    rfl
  · rw [word_retrain hrun, hput]
    exact congrArg (fun u : State => Host.Outcome.next u.conclude)
      (State.closeFrame_flushed (boundTo_withLane hb aligned) (flushesAtOnce_withLane hflush aligned) false)
  · rw [word_retrain hrun, hput]
    exact congrArg (fun u : State => Host.Outcome.next u.conclude)
      (State.closeFrame_waits (boundTo_withLane hb aligned) .truncated (by decide) ha (by rw [State.withStream_get]; exact hm) hpending)

end Sys2Proof.Proofs
end

section
/-! Header errors and the delivery of packets (sections 3.3 to 3.5): O31, O32. -/
namespace Sys2Proof.Proofs
open Sys2Proof.Machine

/-! ## Header errors -/

section
variable {s : State} {i : StreamId} {w : WordClass} {next : ReceivePhase}

/-- The counters of a stream with one header error more. -/
abbrev misread (n : Stats) : Stats := { n with headerErrors := satInc n.headerErrors }

theorem takeItem_headerError (s : State) (i : StreamId) :
    s.takeItem i .headerError = s.withStream i { s.streams[i] with stats := misread s.streams[i].stats } := rfl

/-- A header error below the limit is counted (R66). -/
theorem word_headerError (h : s.streams[i].lane.take s.streams[i].lineLength w = s.streams[i].lane.headerError next)
    (hc : s.streams[i].lane.headerErrors < 3) : s.word i w = (s.withStream i { s.streams[i] with
      lane := { s.streams[i].lane with headerErrors := s.streams[i].lane.headerErrors + 1, phase := next }
      stats := misread s.streams[i].stats }).conclude := by
  have hlimit : ¬Config.headerErrorLimit ≤ s.streams[i].lane.headerErrors + 1 := by
    show ¬4 ≤ _
    omega
  unfold Lane.headerError at h
  rw [if_neg hlimit] at h
  rw [word_item h, takeItem_headerError, State.withStream_get, State.withStream_twice]

/-- The stream whose lane has gone back to SEARCH for a header error (R66). -/
abbrev searching (x : StreamState) : StreamState := { x with lane := .searching, stats := misread x.stats }

/-- The stream of a lane that is lost, but for the frame in progress (R27, R66). -/
abbrev laneLost (x : StreamState) : StreamState :=
  { x with relink := true, stats := { x.stats with laneLosses := satInc x.stats.laneLosses } }

/-- The fourth header error in a row loses the lane (R66). -/
theorem word_laneLoss (h : s.streams[i].lane.take s.streams[i].lineLength w = s.streams[i].lane.headerError next)
    (hc : 3 ≤ s.streams[i].lane.headerErrors) : s.word i w = ((((s.withStream i (searching s.streams[i])).linkDropped i).onStream i laneLost).withStatusBits irqLane).conclude := by
  have hlimit : Config.headerErrorLimit ≤ s.streams[i].lane.headerErrors + 1 := by
    show 4 ≤ _
    omega
  unfold Lane.headerError at h
  rw [if_pos hlimit] at h
  rw [word_items h, takeItem_headerError, State.withStream_get, State.withStream_twice, ← closeFrame_linkLost]
  refine congrArg (fun u : State => (u.withStatusBits irqLane).conclude) ?_
  rw [State.bump, State.onStream_eq, State.onStream_eq, State.withStream_get, State.withStream_twice]
  rfl

theorem laneLost_unbound {f : Frame} {y : StreamState} (hf : y.frame = some f) (hb : f.bound = none) :
    ((s.withStream i y).linkDropped i).onStream i laneLost = s.withStream i ((laneLost y).unframed false) := by
  rw [linkDropped_unbound (by rw [State.withStream_get]; exact hf) hb, State.onStream_eq, State.withStream_get, State.withStream_get,
    State.withStream_twice, State.withStream_twice]
  rfl

theorem laneLost_bound {f : Frame} {c : ContextId} {k : Capture} {y : StreamState} (h : (s.withStream i y).boundTo i f c k) :
    ((s.withStream i y).linkDropped i).onStream i laneLost = (s.withStream i (laneLost y)).frameLost i c k := by
  rw [linkDropped_bound h]
  unfold State.frameLost State.frameClosed
  simp only [State.onStream, State.withStream, Fin.getElem_fin, Vector.getElem_set_self, Vector.set_set]
  rfl

end

/-- Settles O31: the three ways to a header error, then the limit and the frame in progress. -/
theorem headerErrors : Obligations.HeaderErrors := by
  unfold Obligations.HeaderErrors
  rintro s i l c next rfl hrun hc n rfl
  obtain ⟨w, hexec, htake⟩ : ∃ w, exec c s = .next (s.word i w)
      ∧ s.streams[i].lane.take s.streams[i].lineLength w = s.streams[i].lane.headerError next := by
    rcases hc with ⟨code, rfl, hwf, rfl⟩ | ⟨ws, rfl, hp, rfl⟩ | ⟨v, w0, w1, w2, rfl, hp, hj, rfl⟩
    · exact ⟨_, exec_illegalWord hwf s, take_run hrun _ _⟩
    · refine ⟨.idle, rfl, (take_run hrun _ _).trans ?_⟩
      unfold Lane.takeInRun
      rw [hp]
    · refine ⟨.data v, rfl, (take_run hrun _ _).trans ?_⟩
      unfold Lane.takeInRun
      rw [hp]
      dsimp only
      unfold Lane.headerWord
      dsimp only
      rw [hj]
  refine ⟨fun h => ?_, fun h x hx => ⟨fun hf => ?_, fun f hf hb => ?_, fun f d k hb => ?_⟩⟩
  · rw [hexec, word_headerError htake h]
  · rw [hexec, word_laneLoss htake h, linkDropped_none (by rw [State.withStream_get]; exact hf), State.onStream_eq, State.withStream_get,
      State.withStream_twice, hx]
    rfl
  · rw [hexec, word_laneLoss htake h, laneLost_unbound (y := searching s.streams[i]) hf hb, hx]
    rfl
  · rw [hexec, word_laneLoss htake h, laneLost_bound (y := searching s.streams[i]) (boundTo_withStream hb rfl rfl), hx]
    rfl

/-! ## The checks (R208) -/

theorem crcBit_eq {w : Nat} (poly reg : BitVec w) (b : Bool) :
    crcBit poly reg b = if reg.getMsbD 0 ≠ b then (reg <<< 1) ^^^ poly else reg <<< 1 := by
  unfold crcBit BitVec.msb
  simp only [bne_iff_ne]

/-- A word taken in behind others is a run of bits behind theirs. -/
theorem foldl_bits {α : Type} (f : α → Bool → α) {m : Nat} (v : BitVec m) (w : Half) (a : α) :
    (List.range (m + 16)).foldl (fun r k => f r ((v ++ w).getMsbD k)) a
      = (List.range 16).foldl (fun r k => f r (w.getMsbD k)) ((List.range m).foldl (fun r k => f r (v.getMsbD k)) a) := by
  rw [List.range_add, List.foldl_append, List.foldl_map]
  have hfirst : (List.range m).foldl (fun r k => f r ((v ++ w).getMsbD k)) a = (List.range m).foldl (fun r k => f r (v.getMsbD k)) a := by
    refine List.foldl_ext _ _ a fun r k hk => ?_
    rw [BitVec.getMsbD_append, if_neg (by have := List.mem_range.mp hk; omega)]
  rw [hfirst]
  refine List.foldl_ext _ _ _ fun r k _ => ?_
  rw [BitVec.getMsbD_append, if_pos (by omega), Nat.add_sub_cancel_left]

theorem headerCheck_bits (w0 w1 w2 : Half) : headerCheck [w0, w1, w2] = (List.range 48).foldl (fun (r : BitVec 8) k =>
    if r.getMsbD 0 ≠ (w0 ++ w1 ++ w2).getMsbD k then (r <<< 1) ^^^ 0x07 else r <<< 1) 0xFF := by
  simp only [← crcBit_eq]
  unfold headerCheck
  rw [List.foldl_cons, List.foldl_cons, List.foldl_cons, List.foldl_nil]
  unfold crcWord
  rw [← foldl_bits (crcBit 0x07#8) w0 w1, ← foldl_bits (crcBit 0x07#8) (w0 ++ w1) w2]
  rfl

theorem payloadStep_bits (v check : Half) : payloadStep check v = (List.range 16).foldl (fun (r : Half) k =>
    if r.getMsbD 0 ≠ v.getMsbD k then (r <<< 1) ^^^ 0x1021 else r <<< 1) check := by
  simp only [← crcBit_eq]
  rfl

/-! ## Headers (R64, R207) -/

theorem exposureOf_eq_some (v : BitVec 2) (e : Exposure) :
    exposureOf v = some e ↔ v.toNat = [Exposure.single, .long, .short].idxOf e + 1 := by
  revert v
  cases e <;> decide

section
variable (w0 w1 w2 : Half)

theorem readHeader_frameStart (n : Half) (id : BitVec 4) :
    readHeader w0 w1 w2 = some (.frameStart n id) ↔ w0 = 0x00A1 ∧ w1 = n ∧ w2.toNat = id.toNat := by
  have hid : w2.toNat < 16 ∧ w2.setWidth 4 = id ↔ w2.toNat = id.toNat := by
    rw [← BitVec.toNat_inj, BitVec.toNat_setWidth]
    have := id.isLt
    omega
  unfold readHeader
  split
  · next h => rw [Option.ite_none_right_eq_some, Option.some_inj, Header.frameStart.injEq, ← hid]; tauto
  · next h =>
    refine iff_of_false ?_ fun hn => h hn.1
    repeat' split
    all_goals exact fun hn => by cases hn

theorem readHeader_line (x : BitVec 14) (e : Exposure) (n : Nat) : readHeader w0 w1 w2 = some (.line x e n) ↔
    w0 = 0x00A2 ∧ w1.toNat = x.toNat + 16384 * ([Exposure.single, .long, .short].idxOf e + 1) ∧ w2.toNat = n ∧ 1 ≤ n ∧ n ≤ 4096 := by
  have hfield : w1.setWidth 14 = x ∧ (w1.extractLsb' 14 2).toNat = [Exposure.single, .long, .short].idxOf e + 1
      ↔ w1.toNat = x.toNat + 16384 * ([Exposure.single, .long, .short].idxOf e + 1) := by
    rw [← BitVec.toNat_inj, BitVec.toNat_setWidth, BitVec.extractLsb'_toNat, Nat.shiftRight_eq_div_pow]
    have := x.isLt
    have := w1.isLt
    omega
  unfold readHeader
  split
  · next h =>
    refine iff_of_false ?_ fun hn => absurd (h.symm.trans hn.1) (by decide)
    split
    all_goals exact fun hn => by cases hn
  · split
    · next h =>
      rw [← hfield, ← exposureOf_eq_some]
      cases exposureOf (w1.extractLsb' 14 2) with
      | none => exact iff_of_false (fun hn => by cases hn) (fun hn => by cases hn.2.1.2)
      | some z =>
        dsimp only
        rw [Option.ite_none_right_eq_some, Option.some_inj, Header.line.injEq, Option.some_inj, Bool.and_eq_true, decide_eq_true_iff,
          decide_eq_true_iff]
        constructor
        · rintro ⟨⟨hlow, hhigh⟩, hx, rfl, rfl⟩
          exact ⟨h, ⟨hx, rfl⟩, rfl, hlow, hhigh⟩
        · rintro ⟨-, ⟨hx, rfl⟩, rfl, hlow, hhigh⟩
          exact ⟨⟨hlow, hhigh⟩, hx, rfl, rfl⟩
    · next h =>
      refine iff_of_false ?_ fun hn => h hn.1
      split
      all_goals exact fun hn => by cases hn

theorem readHeader_frameEnd (n c : Half) : readHeader w0 w1 w2 = some (.frameEnd n c) ↔ w0 = 0x00A3 ∧ w1 = n ∧ w2 = c := by
  unfold readHeader
  split
  · next h =>
    refine iff_of_false ?_ fun hn => absurd (h.symm.trans hn.1) (by decide)
    split
    all_goals exact fun hn => by cases hn
  · split
    · next h =>
      refine iff_of_false ?_ fun hn => absurd (h.symm.trans hn.1) (by decide)
      repeat' split
      all_goals exact fun hn => by cases hn
    · rw [Option.ite_none_right_eq_some, Option.some_inj, Header.frameEnd.injEq]
      rfl

end

theorem judgeHeader_eq_some (w0 w1 w2 w3 : Half) (h : Header) : judgeHeader w0 w1 w2 w3 = some h ↔
    w3.toNat = (headerCheck [w0, w1, w2]).toNat ∧ readHeader w0 w1 w2 = some h := by
  unfold judgeHeader
  rw [Option.ite_none_right_eq_some, ← BitVec.toNat_inj, BitVec.toNat_setWidth, Nat.mod_eq_of_lt]
  have := (headerCheck [w0, w1, w2]).isLt
  omega

/-! ## Delivery -/

section
variable {s : State} {i : StreamId} {p : Profile}

theorem delivers_of_linked (h : s.linked i p) : s.delivers i = true := by
  obtain ⟨ha, he, hr⟩ := h
  unfold State.delivers StreamState.status
  rw [ha, he, hr]
  cases s.streams[i].frame <;> rfl

theorem lineLength_of_linked (h : s.linked i p) : s.streams[i].lineLength = p.lineLength := by
  unfold StreamState.lineLength
  rw [h.1]

theorem linked_withLane (h : s.linked i p) {m : Lane} (hm : m.state = .run) :
    (s.withStream i { s.streams[i] with lane := m }).linked i p := by
  obtain ⟨ha, he, -⟩ := h
  unfold State.linked
  rw [State.withStream_get]
  exact ⟨ha, he, hm⟩

end

/-- Settles O32: the delivery in the event of the last word, the headers, and the two checks bit by bit. -/
theorem packetsDelivered : Obligations.PacketsDelivered := by
  unfold Obligations.PacketsDelivered
  refine ⟨?_, fun w0 w1 w2 w3 check hcheck => ?_, fun w0 w1 w2 v check => ⟨headerCheck_bits w0 w1 w2, payloadStep_bits v check⟩⟩
  · rintro s i v l p rfl hl put hput
    have htake := take_run hl.2.2
    refine ⟨fun w0 w1 w2 hp => ?_, fun k hp hk => ?_⟩
    · have hheader : ∀ h, judgeHeader w0 w1 w2 v = some h → s.streams[i].lane.take s.streams[i].lineLength (.data v)
          = s.streams[i].lane.goodHeader p.lineLength h := fun h hj => by
        rw [htake, lineLength_of_linked hl]
        unfold Lane.takeInRun
        rw [hp]
        dsimp only
        unfold Lane.headerWord
        dsimp only
        rw [hj]
      have hgap := delivers_of_linked (linked_withLane hl (m := { s.streams[i].lane with headerErrors := 0, phase := .gap }) hl.2.2)
      rw [← hput] at hgap
      refine ⟨fun n id hj => ?_, fun n c hj => ?_, fun x e n hj => ?_⟩
      · refine (congrArg Host.Outcome.next (word_item (x := .frameStart n id) (hheader _ hj))).trans ?_
        rw [← hput]
        exact (congrArg Host.Outcome.next (if_pos hgap)).symm
      · refine (congrArg Host.Outcome.next (word_item (x := .frameEnd n c) (hheader _ hj))).trans ?_
        rw [← hput]
        exact (congrArg Host.Outcome.next (if_pos hgap)).symm
      · refine (congrArg Host.Outcome.next (word_quiet (hheader _ hj))).trans ?_
        rw [← hput]
        rfl
    · refine ⟨_, rfl, (congrArg Host.Outcome.next (word_item (x := .line k.index k.exposure k.kept (decide (v ≠ k.check)))
        (m := { s.streams[i].lane with phase := .gap }) ?_)).trans ?_⟩
      · rw [htake]
        unfold Lane.takeInRun
        rw [hp]
        dsimp only
        unfold Lane.payloadWord
        rw [if_pos hk]
      · rw [← hput]
        rfl
  · simp only [judgeHeader_eq_some, readHeader_frameStart, readHeader_line, readHeader_frameEnd, hcheck, implies_true, and_self]

end Sys2Proof.Proofs
end

section
/-! Lines and frame ends at the Stream Controller, and the flush of held lines: O36, O41, O43. -/
namespace Sys2Proof.Proofs
open Sys2Proof.Machine

/-! ## The status of a stream (R26) -/

section
variable {s : State} {i : StreamId} {p : Profile}

theorem status_inFrame {f : Frame} (h : s.linked i p) (hf : s.streams[i].frame = some f) : s.streams[i].status = .inFrame := by
  obtain ⟨ha, he, hr⟩ := h
  unfold StreamState.status
  rw [ha, he, hr, hf]
  rfl

theorem status_betweenFrames (h : s.linked i p) (hf : s.streams[i].frame = none) : s.streams[i].status = .betweenFrames := by
  obtain ⟨ha, he, hr⟩ := h
  unfold StreamState.status
  rw [ha, he, hr, hf]
  rfl

theorem status_away {x : StreamState} (h : x.active = none ∨ x.laneEnable = false ∨ x.lane.state ≠ .run) :
    x.status = .disabled ∨ x.status = .unlinked := by
  unfold StreamState.status
  split
  · exact .inl rfl
  · next hd =>
    rw [if_pos]
    · exact .inr rfl
    · rw [bne_iff_ne]
      rw [Bool.or_eq_true, not_or, Option.isNone_iff_eq_none, Bool.not_eq_true', Bool.not_eq_false] at hd
      rcases h with h | h | h
      · exact absurd h hd.1
      · rw [h] at hd
        exact absurd hd.2 (by decide)
      · exact h

end

/-! ## Lines -/

theorem exposureFits_iff (e : Exposure) (l : Layout) : exposureFits e l = true ↔
    (l = .single ∧ e = .single) ∨ (l = .paired ∧ (e = .long ∨ e = .short)) := by
  cases e <;> cases l <;> decide

theorem accepts_iff (f : Frame) (p : Profile) (n : Nat) (e : Exposure) : f.accepts p n e = true ↔
    exposureFits e p.layout = true ∧ n < p.frameHeight ∧ ∀ m, f.last e = some m → m < n := by
  unfold Frame.accepts
  rw [Bool.and_eq_true, Bool.and_eq_true, decide_eq_true_iff, and_assoc]
  cases f.last e with
  | none => simp
  | some m => simp

theorem not_accepts_iff (f : Frame) (p : Profile) (n : Nat) (e : Exposure) : f.accepts p n e = false ↔
    exposureFits e p.layout = false ∨ p.frameHeight ≤ n ∨ ∃ m, f.last e = some m ∧ n ≤ m := by
  rw [← Bool.not_eq_true, accepts_iff, not_and_or, not_and_or, Bool.not_eq_true, Nat.not_lt]
  simp only [not_forall, Nat.not_lt, exists_prop]

theorem stray_eq (s : State) (i : StreamId) : s.stray i = s.withStream i { s.streams[i] with
    stats := { s.streams[i].stats with packetsStray := satInc s.streams[i].stats.packetsStray } } := rfl

theorem takeLine_inFrame {s : State} {i : StreamId} {p : Profile} {f : Frame} (h : s.linked i p) (hf : s.streams[i].frame = some f)
    (n : Nat) (e : Exposure) (px : List Pixel) (d : Bool) : s.takeLine i n e px d =
      if f.accepts p n e then s.acceptLine i f n e (px.take p.lineLength) d else s.stray i := by
  unfold State.takeLine
  dsimp only
  rw [status_inFrame h hf, hf, h.1]

/-- The stream that has accepted a line, before the Pixel Path (R41, R43, R45). -/
def lineTaken (s : State) (i : StreamId) (f : Frame) (n : Nat) (e : Exposure) (d : Bool) : StreamState :=
  { s.streams[i] with
    frame := some (f.accept n e)
    gapTimer := some s.timeBase
    stats := if d then { s.streams[i].stats with linesDamaged := satInc s.streams[i].stats.linesDamaged } else s.streams[i].stats }

section
variable {s : State} {i : StreamId} {f : Frame} (n : Nat) (e : Exposure) (px : List Pixel) (d : Bool)

theorem lineTaken_eq : (if d then (s.onStream i fun x => { x with frame := some (f.accept n e), gapTimer := some s.timeBase }).bump i
      fun n => { n with linesDamaged := satInc n.linesDamaged }
    else s.onStream i fun x => { x with frame := some (f.accept n e), gapTimer := some s.timeBase })
    = s.withStream i (lineTaken s i f n e d) := by
  cases d
  · rfl
  · rw [if_pos rfl, State.bump, State.onStream_eq, State.onStream_eq, State.withStream_get, State.withStream_twice]
    rfl

theorem acceptLine_unbound (hb : f.bound = none) : s.acceptLine i f n e px d = s.withStream i (lineTaken s i f n e d) := by
  unfold State.acceptLine
  dsimp only
  rw [lineTaken_eq, hb]

theorem acceptLine_bound {c : ContextId} {k : Capture} (hb : f.bound = some c) (hk : s.streams[i].contexts[c] = some k) :
    s.acceptLine i f n e px d = (s.withStream i (lineTaken s i f n e d)).pixelPath i c k n e px d := by
  have hcapture : (s.withStream i (lineTaken s i f n e d)).capture? i c = some k := by
    unfold State.capture?
    rw [State.withStream_get]
    exact hk
  unfold State.acceptLine
  dsimp only
  rw [lineTaken_eq, hb]
  dsimp only
  rw [hcapture]

end

/-- Settles O36: an accepted line, a stray one, and one that is not delivered. -/
theorem lineArrives : Obligations.LineArrives := by
  unfold Obligations.LineArrives
  refine ⟨exposureFits_iff, fun s i p idx e px d => ⟨fun hl => ⟨fun f hf => ⟨fun hacc hb => ?_, fun hacc => ?_⟩, fun hf => ?_⟩, fun haway => ?_⟩⟩
  · change Host.Outcome.next (s.takeLine i idx.toNat e px d) = _
    rw [takeLine_inFrame hl hf, if_pos ((accepts_iff ..).mpr hacc)]
    rw [acceptLine_unbound _ _ _ _ hb]
    rfl
  · change Host.Outcome.next (s.takeLine i idx.toNat e px d) = _
    rw [takeLine_inFrame hl hf, if_neg (by rw [(not_accepts_iff ..).mpr hacc]; decide), stray_eq]
  · change Host.Outcome.next (s.takeLine i idx.toNat e px d) = _
    unfold State.takeLine
    dsimp only
    rw [status_betweenFrames hl hf, stray_eq]
  · change Host.Outcome.next (s.takeLine i idx.toNat e px d) = _
    unfold State.takeLine
    dsimp only
    rcases status_away haway with h | h
    · rw [h]
    · rw [h]

/-! ## The end of a frame -/

section
variable {s : State} {i : StreamId} {p : Profile} {f : Frame}

theorem exec_frameEnd (h : s.linked i p) (n c : Half) : exec (.frameEnd i n c) s = .next (s.takeFrameEnd i n c).conclude :=
  congrArg Host.Outcome.next (if_pos (delivers_of_linked h))

theorem takeFrameEnd_other (h : s.linked i p) (hf : s.streams[i].frame = some f) {n : Half} (hn : n ≠ f.number) (c : Half) :
    s.takeFrameEnd i n c = s.stray i := by
  unfold State.takeFrameEnd
  dsimp only
  rw [status_inFrame h hf, hf]
  exact if_neg (Ne.symm hn)

theorem takeFrameEnd_own (h : s.linked i p) (hf : s.streams[i].frame = some f) (c : Half) {t : State} (ht : s.closeFrame i .normal = t) :
    s.takeFrameEnd i f.number c = t.withStream i { t.streams[i] with lastLineCount := c } := by
  unfold State.takeFrameEnd
  dsimp only
  rw [status_inFrame h hf, hf]
  dsimp only
  rw [if_pos rfl, ht]
  rfl

theorem exec_lineGapTimeout (h : s.linked i p) {start : Word} (hs : s.streams[i].gapTimer = some start) :
    exec (.lineGapTimeout i) s = .next (if p.gapTimeout * 1000 ≤ (s.timeBase - start).toNat then (s.closeFrame i .truncated).conclude else s) := by
  change Host.Outcome.next (match s.streams[i].gapTimer, s.streams[i].active with
    | some start, some p =>
      if ranOut s.timeBase start (p.gapTimeout * 1000) then (s.closeFrame i .truncated).conclude else s
    | _, _ => s) = _
  rw [hs, h.1]
  unfold ranOut
  simp only [decide_eq_true_eq]

end

/-- Settles O41: FRAME_END and the line-gap timer, by what the frame in progress is bound to. -/
theorem frameCloses : Obligations.FrameCloses := by
  unfold Obligations.FrameCloses
  refine ⟨?_, fun s i p n c hl hf => ?_⟩
  · rintro s i p f hl hf x n rfl rfl
    have htimeout : ∀ start, s.streams[i].gapTimer = some start → p.gapTimeout * 1000 ≤ (s.timeBase - start).toNat →
        ∀ t, s.closeFrame i .truncated = t → exec (.lineGapTimeout i) s = .next t.conclude := fun start hs hr t ht => by
      rw [exec_lineGapTimeout hl hs, if_pos hr, ht]
    have hend : ∀ c t, s.closeFrame i .normal = t →
        exec (.frameEnd i f.number c) s = .next (t.withStream i { t.streams[i] with lastLineCount := c }).conclude := fun c t ht => by
      rw [exec_frameEnd hl, takeFrameEnd_own hl hf c ht]
    refine ⟨fun m c hm => ?_, fun hb => ⟨fun c => ?_, fun start hs hr => ?_⟩, fun c k hb hflush => ⟨fun count t ht => ?_, fun start hs hr => ?_⟩,
      fun c d k m hb hd hm hpending => ⟨fun start hs hr => ?_, fun count t ht => ?_⟩, fun start hs hlt => ?_⟩
    · rw [exec_frameEnd hl, takeFrameEnd_other hl hf hm, stray_eq]
    · rw [hend c _ (State.closeFrame_unbound hf hb .normal), State.withStream_get, State.withStream_twice]
      rfl
    · exact htimeout start hs hr _ (State.closeFrame_unbound hf hb .truncated)
    · exact hend count t ((State.closeFrame_flushed hb hflush true).trans ht.symm)
    · exact htimeout start hs hr _ (State.closeFrame_flushed hb hflush false)
    · exact htimeout start hs hr _ (State.closeFrame_waits hb .truncated (by decide) hd hm hpending)
    · exact hend count t ((State.closeFrame_waits hb .normal (by decide) hd hm hpending).trans ht.symm)
    · rw [exec_lineGapTimeout hl hs, if_neg (by omega)]
  · rw [exec_frameEnd hl]
    unfold State.takeFrameEnd
    dsimp only
    rw [status_betweenFrames hl hf, stray_eq]

/-! ## Flush steps -/

theorem flushLines_append (i : StreamId) (a b : List HeldLine) (s : State) :
    flushLines i (a ++ b) s = flushLines i b (flushLines i a s) := by
  induction a generalizing s with
  | nil => rfl
  | cons h a ih => exact ih _

/-- No line of the list is one that a room notice of the stream lets go. -/
def NoneWaits (s : State) (i : StreamId) (l : List HeldLine) : Prop :=
  ∀ h ∈ l, h.stream = i → ∀ m, s.streams[i].contexts[h.context] = some m → m.flushPending = false

theorem flushWaits_eq {s : State} {h : HeldLine} : s.flushWaits h = true
    ↔ ∃ k, s.streams[h.stream].contexts[h.context] = some k ∧ k.flushPending = true := by
  unfold State.flushWaits State.capture?
  cases s.streams[h.stream].contexts[h.context] <;> simp

theorem flushLines_idle {i : StreamId} {l : List HeldLine} {s : State} (hl : NoneWaits s i l) : flushLines i l s = s := by
  induction l with
  | nil => rfl
  | cons h l ih =>
    unfold flushLines
    rw [if_neg, ih fun h' hm => hl h' (List.mem_cons_of_mem _ hm)]
    rw [Bool.and_eq_true, Bool.and_eq_true, decide_eq_true_iff, flushWaits_eq]
    rintro ⟨⟨rfl, k, hk, hpending⟩, -⟩
    rw [hl h List.mem_cons_self rfl k hk] at hpending
    cases hpending

/-- A line that may go does, and the flush goes on behind it. -/
theorem flushLines_cons {i : StreamId} {h : HeldLine} {l : List HeldLine} {s : State} (hi : h.stream = i) (hw : s.flushWaits h = true)
    (hr : s.streams[i].buffer.length < 8) : flushLines i (h :: l) s = flushLines i l (s.writeHeld h) := by
  rw [flushLines, if_pos]
  rw [Bool.and_eq_true, Bool.and_eq_true, decide_eq_true_iff, State.hasRoom_iff]
  exact ⟨⟨hi, hw⟩, hr⟩

theorem exec_flushStep {s : State} (hf : s.device ≠ .faulted) (hr : s.device ≠ .resetting) (i : StreamId) :
    exec (.flushStep i) s = .next (flushLines i s.pairing s) :=
  congrArg Host.Outcome.next (if_neg (by simp [hf, hr]))

/-- The flush of a capture ends with its last held line (R106). -/
theorem flushPending_eq {k : Capture} {b : Bool} (h : k.flushPending = true) :
    (if b then k else { k with flushPending := false }) = { k with flushPending := b } := by
  cases b
  · rfl
  · rw [if_pos rfl, ← h]

/-- Settles O43: the first line that may go, and what follows it. -/
theorem flushStep : Obligations.FlushStep := by
  unfold Obligations.FlushStep
  refine fun s i => ⟨?_, fun hn => ?_⟩
  · rintro pre post h k hp rfl hpre hk hpending hmerge hw ha hroom hnf hnr t ht
    have hfresh : h ∉ pre := fun hm => by
      rw [hpre h hm rfl k hk] at hpending
      cases hpending
    have hwrite : s.writeHeld h = t := by
      have herase : s.pairing.erase h = pre ++ post := by
        rw [hp, List.erase_append_right _ hfresh, List.erase_cons_head]
      rw [State.writeHeld_own hk (by simp [HeldLine.ownedBy]) hw ha (by rw [hmerge]; decide) hroom, herase, ht,
        flushPending_eq hpending]
      rfl
    have hleft : NoneWaits t h.stream pre := fun l hm hl m hc => by
      have hne : l.context ≠ h.context := fun he => by
        have hsame := congrArg (fun a : ContextId => s.streams[h.stream].contexts[a]) he
        have hoff := hpre l hm hl k (hsame.trans hk)
        rw [hpending] at hoff
        cases hoff
      have hget : t.streams[h.stream].contexts[l.context] = s.streams[h.stream].contexts[l.context] := by
        rw [ht]
        refine (congrArg (fun x : StreamState => x.contexts[l.context]) (State.withStream_get s h.stream _)).trans ?_
        exact (get_set ..).trans (if_neg hne)
      exact hpre l hm hl m (hget ▸ hc)
    have hexec : exec (.flushStep h.stream) s = .next (flushLines h.stream post t) := by
      rw [exec_flushStep hnf hnr, hp, flushLines_append, flushLines_idle hpre,
        flushLines_cons rfl (flushWaits_eq.mpr ⟨k, hk, hpending⟩) hroom, hwrite]
    have hdevice : t.device = s.device := by rw [ht]; rfl
    have hpairing : t.pairing = pre ++ post := by rw [ht]
    refine ⟨?_, fun hnil => ?_⟩
    · rw [hexec, exec_flushStep (hdevice ▸ hnf) (hdevice ▸ hnr), hpairing, flushLines_append, flushLines_idle hleft]
    · obtain ⟨-, rfl⟩ := List.append_eq_nil_iff.mp hnil
      exact hexec
  · by_cases hd : s.device = .faulted ∨ s.device = .resetting
    · exact congrArg Host.Outcome.next (if_pos (by rcases hd with hd | hd <;> rw [hd] <;> rfl))
    · rw [not_or] at hd
      rw [exec_flushStep hd.1 hd.2]
      rcases hn with hn | hn | hn | hn
      · rw [flushLines_full (by rw [Bool.eq_false_iff, Ne, State.hasRoom_iff]; omega)]
      · exact absurd hn hd.1
      · exact absurd hn hd.2
      · rw [flushLines_idle hn]

end Sys2Proof.Proofs
end

section
/-! A line of a bound frame in the Pixel Path and the Pairing Store (sections 4 and 5): O37, O38. -/
namespace Sys2Proof.Proofs
open Sys2Proof.Machine

/-! ## Rows that a capture produces -/

section
variable {s : State} {i : StreamId} {c : ContextId} {x : StreamState} {m : Capture} {r : Row}

theorem capture_withStream (h : x.contexts[c] = some m) : (s.withStream i x).capture? i c = some m := by
  unfold State.capture?
  rw [State.withStream_get]
  exact h

theorem produceRow_dropped (h : x.contexts[c] = some m) (hd : m.causes.writeFault = true ∨ m.causes.aborted = true) :
    (s.withStream i x).produceRow i c r = s.withStream i x := by
  unfold State.produceRow
  rw [capture_withStream h]
  dsimp only
  rw [if_pos (by rcases hd with hd | hd <;> rw [hd] <;> simp)]

theorem lostRow_eq (h : x.contexts[c] = some m) : (s.withStream i x).lostRow i c = s.withStream i { x with
    contexts := x.contexts.set c (some { m with counters := { m.counters with overrun := satInc m.counters.overrun } })
    stats := { x.stats with linesOverrun := satInc x.stats.linesOverrun } } := by
  unfold State.lostRow State.onCounters
  rw [State.onCapture_withStream h, State.bump, State.onStream_eq, State.withStream_get, State.withStream_twice]

theorem lateLine_eq (h : x.contexts[c] = some m) : (s.withStream i x).lateLine i c = s.withStream i { x with
    contexts := x.contexts.set c (some { m with counters := { m.counters with late := satInc m.counters.late } })
    stats := { x.stats with linesLate := satInc x.stats.linesLate } } := by
  unfold State.lateLine State.onCounters
  rw [State.onCapture_withStream h, State.bump, State.onStream_eq, State.withStream_get, State.withStream_twice]

theorem produceRow_lost (h : x.contexts[c] = some m) (hw : m.causes.writeFault = false) (ha : m.causes.aborted = false)
    (hfull : 8 ≤ x.buffer.length) : (s.withStream i x).produceRow i c r = s.withStream i { x with
      contexts := x.contexts.set c (some { m with counters := { m.counters with overrun := satInc m.counters.overrun } })
      stats := { x.stats with linesOverrun := satInc x.stats.linesOverrun } } := by
  unfold State.produceRow
  rw [capture_withStream h]
  dsimp only
  rw [if_neg (by rw [hw, ha]; decide), if_neg (by rw [State.hasRoom_iff, State.withStream_get]; omega), lostRow_eq h]

theorem produceRow_stored (h : x.contexts[c] = some m) (hw : m.causes.writeFault = false) (ha : m.causes.aborted = false)
    (hroom : x.buffer.length < 8) : (s.withStream i x).produceRow i c r = s.withStream i { x with
      contexts := x.contexts.set c (some (m.markExposure r.plane r.row))
      buffer := x.buffer ++ [r.finished m.request c] } := by
  unfold State.produceRow
  rw [capture_withStream h]
  dsimp only
  rw [if_neg (by rw [hw, ha]; decide), if_pos (by rw [State.hasRoom_iff, State.withStream_get]; exact hroom), State.onStream_eq,
    State.withStream_get, State.withStream_twice]
  exact State.onCapture_withStream (x := { x with buffer := x.buffer ++ [r.finished m.request c] }) h _

end

theorem markExposure_merge {m : Capture} (h : m.request.assembly = .merge) (plane : Plane) (row : Nat) : m.markExposure plane row = m := by
  unfold Capture.markExposure
  rw [h]

theorem markExposure_eq {m : Capture} (h : m.request.assembly ≠ .merge) {two : Bool} (ht : two = true → m.request.assembly = .split)
    (row : Nat) : m.markExposure (if two then .two else .one) row = if m.request.assembly = .plain then m
        else if two then { m with rowsShortExposure := insertRow row m.rowsShortExposure }
        else { m with rowsLong := insertRow row m.rowsLong } := by
  unfold Capture.markExposure
  cases ha : m.request.assembly with
  | plain => rfl
  | merge => exact absurd ha h
  | split => cases two <;> rfl

/-! ## The Pixel Path -/

/-- The pixels of a line after the repair that its capture asks for (R80). -/
def repaired (k : Capture) (n : Nat) (px : List Pixel) : List Pixel :=
  if k.request.repair then repairLine k.defects n px else px

/-- The line that a window line of a MERGE capture would be held as (R85, R94). -/
def heldLine (i : StreamId) (c : ContextId) (k : Capture) (n : Nat) (e : Exposure) (y : List Pixel) (d : Bool) : HeldLine :=
  ⟨i, c, n, crop k.request.left k.request.cols (k.subtracted n e y), d, decide (y.length < k.request.left + k.request.cols)⟩

section
variable {s : State} {i : StreamId} {c : ContextId} {k : Capture} {n : Nat} {e : Exposure} {px y : List Pixel} {d : Bool} {u : State}

theorem pixelPath_outside (hy : repaired k n px = y)
    (hu : s.onCapture i c (fun z => { z with blacks := z.blacksAfter n e y }) = u)
    (hwindow : n < k.request.top ∨ k.request.top + k.request.rows ≤ n) : s.pixelPath i c k n e px d = u := by
  subst hy hu
  unfold State.pixelPath repaired
  dsimp only
  rw [if_neg (by rw [Bool.and_eq_true, decide_eq_true_iff, decide_eq_true_iff]; omega)]

theorem window_iff : (decide (k.request.top ≤ n) && decide (n < k.request.top + k.request.rows)) = true
    ↔ k.request.top ≤ n ∧ n < k.request.top + k.request.rows := by
  rw [Bool.and_eq_true, decide_eq_true_iff, decide_eq_true_iff]

/-- A window line of a PLAIN or SPLIT capture (R86, R111). -/
theorem pixelPath_row (hy : repaired k n px = y)
    (hu : s.onCapture i c (fun z => { z with blacks := z.blacksAfter n e y }) = u)
    (hwindow : k.request.top ≤ n ∧ n < k.request.top + k.request.rows) (hmerge : k.request.assembly ≠ .merge)
    {two : Bool} (htwo : two = decide (k.request.assembly = .split ∧ e = .short)) :
    s.pixelPath i c k n e px d = u.produceRow i c ⟨if two then .two else .one,
      n - k.request.top, crop k.request.left k.request.cols (k.subtracted n e y),
      decide (y.length < k.request.left + k.request.cols), d, false⟩ := by
  subst hy hu htwo
  unfold State.pixelPath repaired
  dsimp only
  rw [if_pos (window_iff.mpr hwindow)]
  cases ha : k.request.assembly with
  | plain => cases e <;> rfl
  | merge => exact absurd ha hmerge
  | split => cases e <;> rfl

theorem pixelPath_long (hy : repaired k n px = y)
    (hu : s.onCapture i c (fun z => { z with blacks := z.blacksAfter n .long y }) = u)
    (hwindow : k.request.top ≤ n ∧ n < k.request.top + k.request.rows) (hmerge : k.request.assembly = .merge) :
    s.pixelPath i c k n .long px d = u.longLine k (heldLine i c k n .long y d) := by
  subst hy hu
  unfold State.pixelPath repaired
  dsimp only
  rw [if_pos (window_iff.mpr hwindow), hmerge]
  rfl

theorem pixelPath_short (hy : repaired k n px = y)
    (hu : s.onCapture i c (fun z => { z with blacks := z.blacksAfter n .short y }) = u)
    (hwindow : k.request.top ≤ n ∧ n < k.request.top + k.request.rows) (hmerge : k.request.assembly = .merge) :
    s.pixelPath i c k n .short px d = u.shortLine k (heldLine i c k n .short y d) := by
  subst hy hu
  unfold State.pixelPath repaired
  dsimp only
  rw [if_pos (window_iff.mpr hwindow), hmerge]
  rfl

end

/-- The stream that has taken a line of its bound capture, the black measurement with it, before any row (R82, R83). -/
def measured (s : State) (i : StreamId) (f : Frame) (c : ContextId) (n : Nat) (e : Exposure) (d : Bool) (m : Capture) : StreamState :=
  { lineTaken s i f n e d with contexts := s.streams[i].contexts.set c (some m) }

/-- A line of a bound frame goes through the Pixel Path (R76). -/
theorem exec_line {s : State} {i : StreamId} {p : Profile} {f : Frame} {c : ContextId} {k : Capture} (h : s.linked i p)
    (hf : s.streams[i].frame = some f) {idx : BitVec 14} {e : Exposure} (hacc : f.accepts p idx.toNat e = true) (hb : f.bound = some c)
    (hk : s.streams[i].contexts[c] = some k) (px : List Pixel) (d : Bool) : exec (.line i idx e px d) s =
      .next ((s.withStream i (lineTaken s i f idx.toNat e d)).pixelPath i c k idx.toNat e (px.take p.lineLength) d) := by
  change Host.Outcome.next (s.takeLine i idx.toNat e px d) = _
  rw [takeLine_inFrame h hf, if_pos hacc, acceptLine_bound _ _ _ _ hb hk]

theorem measured_eq {s : State} {i : StreamId} {f : Frame} {c : ContextId} {k : Capture} (hk : s.streams[i].contexts[c] = some k)
    (n : Nat) (e : Exposure) (d : Bool) (y : List Pixel) :
    (s.withStream i (lineTaken s i f n e d)).onCapture i c (fun z => { z with blacks := z.blacksAfter n e y })
      = s.withStream i (measured s i f c n e d { k with blacks := k.blacksAfter n e y }) :=
  State.onCapture_withStream (x := lineTaken s i f n e d) hk _

/-- Settles O37: the window, then the capture's causes and the room in the buffer. -/
theorem lineStored : Obligations.LineStored := by
  unfold Obligations.LineStored
  intro s i p idx e px d f c k hl hf hacc hb hk x q n y m two row hq hy hm htwo hrow hn hx
  have hx' : x = measured s i f c idx.toNat e d m := by
    rw [hx, hn]
    rfl
  have hu : (s.withStream i (lineTaken s i f idx.toNat e d)).onCapture i c (fun z => { z with blacks := z.blacksAfter idx.toNat e y })
      = s.withStream i x := by
    rw [measured_eq hk, hx', hm]
  have hget : x.contexts[c] = some m := by
    rw [hx]
    exact Vector.getElem_set_self ..
  have hset : ∀ z, x.contexts.set c z = s.streams[i].contexts.set c z := fun z => by
    rw [hx]
    exact Vector.set_set ..
  subst hq
  have hrepaired : repaired k idx.toNat (px.take p.lineLength) = y := hy.symm
  rw [exec_line hl hf hacc hb hk]
  refine ⟨fun hmerge hlow hhigh => ?_, fun hwindow => congrArg Host.Outcome.next (pixelPath_outside hrepaired hu hwindow)⟩
  rw [pixelPath_row hrepaired hu ⟨hlow, hhigh⟩ hmerge htwo]
  refine ⟨fun hw ha hroom => ?_, fun hw ha hfull => ?_, fun hd => ?_⟩
  · rw [produceRow_stored hget (by rw [hm]; exact hw) (by rw [hm]; exact ha) (by rw [hx]; exact hroom), hset]
    have hmark : m.markExposure (if two then .two else .one) (idx.toNat - k.request.top)
        = if k.request.assembly = .plain then m else if two then { m with rowsShortExposure := insertRow row k.rowsShortExposure }
          else { m with rowsLong := insertRow row k.rowsLong } := by
      rw [markExposure_eq (by rw [hm]; exact hmerge) (by rw [htwo, hm, decide_eq_true_iff]; exact And.left), hrow, hm]
    rw [hmark, hx, hm, hrow]
    cases two <;> rfl
  · rw [produceRow_lost hget (by rw [hm]; exact hw) (by rw [hm]; exact ha) (by rw [hx]; exact hfull), hset, hx, hm]
  · exact congrArg Host.Outcome.next (produceRow_dropped hget (by rw [hm]; exact hd))

end Sys2Proof.Proofs
end

section
/-! LONG and SHORT lines of a MERGE capture (R99 to R103): O38. -/
namespace Sys2Proof.Proofs
open Sys2Proof.Machine

theorem toNat_scalePixel (v : Pixel) (ratio : Nat) : (scalePixel v ratio).toNat = min (v.toNat * ratio) 65535 :=
  (BitVec.toNat_ofNat ..).trans (Nat.mod_eq_of_lt (by omega))

theorem atOrBelow_iff (n : Nat) (mark : Option Nat) : atOrBelow n mark = true ↔ ∃ w, mark = some w ∧ n ≤ w := by
  cases mark with
  | none => simp [atOrBelow]
  | some w => simp [atOrBelow]

theorem atOrBelow_above {n : Nat} {mark : Option Nat} (h : ∀ w, mark = some w → w < n) : ¬atOrBelow n mark = true := by
  rw [atOrBelow_iff]
  rintro ⟨w, hw, hle⟩
  exact absurd (h w hw) (by omega)

section
variable {s : State} {i : StreamId} {x : StreamState} {h : HeldLine} {k : Capture}

/-! ## LONG lines -/

theorem longLine_late {m : Capture} (hi : h.stream = i) (hc : x.contexts[h.context] = some m) {w : Nat} (hw : k.shortHigh = some w)
    (hle : h.index ≤ w) : (s.withStream i x).longLine k h = s.withStream i { x with
      contexts := x.contexts.set h.context (some { m with counters := { m.counters with late := satInc m.counters.late } })
      stats := { x.stats with linesLate := satInc x.stats.linesLate } } := by
  subst hi
  unfold State.longLine
  rw [if_pos ((atOrBelow_iff ..).mpr ⟨w, hw, hle⟩), lateLine_eq hc]

theorem longLine_held (hi : h.stream = i) (hhigh : ∀ w, k.shortHigh = some w → w < h.index)
    (hquota : s.heldCount i < quotaOf x.active) :
    (s.withStream i x).longLine k h = { s.withStream i x with pairing := s.pairing ++ [h] } := by
  subst hi
  unfold State.longLine
  rw [if_neg (atOrBelow_above hhigh), if_pos]
  · rfl
  · rw [State.withStream_get]
    exact hquota

theorem longLine_full (hi : h.stream = i) (hhigh : ∀ w, k.shortHigh = some w → w < h.index)
    (hquota : quotaOf x.active ≤ s.heldCount i) : (s.withStream i x).longLine k h = (s.withStream i x).evictFor h := by
  subst hi
  unfold State.longLine
  rw [if_neg (atOrBelow_above hhigh), if_neg]
  rw [State.withStream_get]
  exact Nat.not_lt.mpr hquota

theorem evictFor_lost {m : Capture} (hi : h.stream = i) (hc : x.contexts[h.context] = some m) (hfull : 8 ≤ x.buffer.length) :
    (s.withStream i x).evictFor h = s.withStream i { x with
      contexts := x.contexts.set h.context (some { m with counters := { m.counters with overrun := satInc m.counters.overrun } })
      stats := { x.stats with linesOverrun := satInc x.stats.linesOverrun } } := by
  subst hi
  unfold State.evictFor
  rw [if_neg (by rw [State.hasRoom_iff, State.withStream_get]; omega), lostRow_eq hc]

/-- The oldest held line of the stream leaves for its own capture, and the arriving line takes its slot (R100). -/
theorem evictFor_evicts {old : HeldLine} {a : ContextId} {z : Capture} (hi : h.stream = i)
    (hold : s.pairing.find? (fun l => decide (l.stream = i)) = some old) (hoc : old.context = a) (hc : x.contexts[a] = some z)
    (hmerge : z.request.assembly = .merge) (hw : z.causes.writeFault = false) (ha : z.causes.aborted = false)
    (hroom : x.buffer.length < 8) : (s.withStream i x).evictFor h = { s.withStream i { x with
      contexts := x.contexts.set a (some { z with
        watermark := some old.index
        flushPending := z.flushPending && (s.pairing.erase old).any fun l => l.ownedBy i a })
      buffer := x.buffer ++ [old.alone z.request a]
      stats := { x.stats with evictions := satInc x.stats.evictions } } with pairing := s.pairing.erase old ++ [h] } := by
  subst hi hoc
  have hstream : old.stream = h.stream := of_decide_eq_true (List.find?_some (p := fun l : HeldLine => decide (l.stream = h.stream)) hold)
  have hflush : (if (s.pairing.erase old).any (fun l => l.ownedBy h.stream old.context) then z else { z with flushPending := false })
      = { z with flushPending := z.flushPending && (s.pairing.erase old).any fun l => l.ownedBy h.stream old.context } := by
    cases (s.pairing.erase old).any fun l => l.ownedBy h.stream old.context
    · rw [Bool.and_false]
      rfl
    · rw [Bool.and_true]
      rfl
  have hwrite : (s.withStream h.stream x).writeHeld old = ({ s with pairing := s.pairing.erase old }).withStream h.stream { x with
      contexts := x.contexts.set old.context (some { z with
        flushPending := z.flushPending && (s.pairing.erase old).any fun l => l.ownedBy h.stream old.context })
      buffer := x.buffer ++ [old.alone z.request old.context] } := by
    rw [State.writeHeld_own (i := h.stream) (c := old.context) (k := z) (by rw [State.withStream_get]; exact hc)
      (by simp [HeldLine.ownedBy, hstream]) hw ha (by rw [hmerge]; decide) (by rw [State.withStream_get]; exact hroom)]
    rw [State.withStream_get, State.withStream_twice]
    exact congrArg (fun m => ({ s.withStream h.stream { x with
      contexts := x.contexts.set old.context (some m)
      buffer := x.buffer ++ [old.alone z.request old.context] } with pairing := s.pairing.erase old } : State)) hflush
  unfold State.evictFor
  rw [if_pos (by rw [State.hasRoom_iff, State.withStream_get]; exact hroom)]
  have holdest : (s.withStream h.stream x).oldestHeld h.stream = some old := hold
  rw [holdest]
  dsimp only
  rw [hwrite, hstream, State.onCapture_withStream (by exact Vector.getElem_set_self ..), State.bump, State.onStream_eq, State.withStream_get,
    State.withStream_twice, Vector.set_set]
  rfl

/-! ## SHORT lines -/

/-- A SHORT line marks its capture first (R101). -/
theorem shortLine_merged {m : Capture} {l : HeldLine} (hi : h.stream = i) (hc : x.contexts[h.context] = some m)
    (hl : s.pairing.find? (fun l => l.ownedBy i h.context && l.index == h.index) = some l) : (s.withStream i x).shortLine k h
      = (({ s with pairing := s.pairing.erase l }).withStream i { x with
          contexts := x.contexts.set h.context (some { m with shortHigh := some h.index }) }).produceRow i h.context
        ⟨.one, h.index - k.request.top, List.zipWith (mergePixel k.profile.knee k.profile.mergeRatio) l.pixels h.pixels,
          l.short || h.short, l.damaged || h.damaged, false⟩ := by
  subst hi
  unfold State.shortLine
  rw [State.onCapture_withStream hc]
  have hfind : (s.withStream h.stream { x with contexts := x.contexts.set h.context (some { m with shortHigh := some h.index }) }).pairing.find?
      (fun l => l.ownedBy h.stream h.context && l.index == h.index) = some l := hl
  dsimp only
  rw [hfind]
  rfl

theorem shortLine_alone {m : Capture} (hi : h.stream = i) (hc : x.contexts[h.context] = some m)
    (hn : s.pairing.find? (fun l => l.ownedBy i h.context && l.index == h.index) = none)
    (hmark : ∀ w, k.watermark = some w → w < h.index) : (s.withStream i x).shortLine k h
      = (s.withStream i { x with
          contexts := x.contexts.set h.context (some { m with shortHigh := some h.index }) }).produceRow i h.context
        ⟨.one, h.index - k.request.top, h.pixels.map (scalePixel · k.profile.mergeRatio), h.short, h.damaged, true⟩ := by
  subst hi
  unfold State.shortLine
  rw [State.onCapture_withStream hc]
  have hfind : (s.withStream h.stream { x with contexts := x.contexts.set h.context (some { m with shortHigh := some h.index }) }).pairing.find?
      (fun l => l.ownedBy h.stream h.context && l.index == h.index) = none := hn
  dsimp only
  rw [hfind]
  exact if_neg (atOrBelow_above hmark)

theorem shortLine_late {m : Capture} (hi : h.stream = i) (hc : x.contexts[h.context] = some m)
    (hn : s.pairing.find? (fun l => l.ownedBy i h.context && l.index == h.index) = none) {w : Nat}
    (hw : k.watermark = some w) (hle : h.index ≤ w) : (s.withStream i x).shortLine k h = s.withStream i { x with
      contexts := x.contexts.set h.context (some { m with
        shortHigh := some h.index, counters := { m.counters with late := satInc m.counters.late } })
      stats := { x.stats with linesLate := satInc x.stats.linesLate } } := by
  subst hi
  unfold State.shortLine
  rw [State.onCapture_withStream hc]
  have hfind : (s.withStream h.stream { x with contexts := x.contexts.set h.context (some { m with shortHigh := some h.index }) }).pairing.find?
      (fun l => l.ownedBy h.stream h.context && l.index == h.index) = none := hn
  dsimp only
  rw [hfind]
  dsimp only
  rw [if_pos ((atOrBelow_iff ..).mpr ⟨w, hw, hle⟩), lateLine_eq (by exact Vector.getElem_set_self ..), Vector.set_set]

end

/-- Settles O38: the three outcomes of a LONG line and the four of a SHORT one. -/
theorem mergeLines : Obligations.MergeLines := by
  unfold Obligations.MergeLines
  refine ⟨fun knee ratio l v => ⟨toNat_scalePixel v ratio, rfl⟩, ?_⟩
  intro s i p idx e px d f c k hl hf hacc hb hk hmerge hlow hhigh hw ha x q n y m h line hq hy hm hh hn hx hline
  have hu : (s.withStream i (lineTaken s i f idx.toNat e d)).onCapture i c (fun z => { z with blacks := z.blacksAfter idx.toNat e y })
      = s.withStream i x := by
    rw [measured_eq hk, hx, hn, hm]
    rfl
  have hget : x.contexts[c] = some m := by
    rw [hx]
    exact Vector.getElem_set_self ..
  have hset : ∀ z, x.contexts.set c z = s.streams[i].contexts.set c z := fun z => by
    rw [hx]
    exact Vector.set_set ..
  have hbuffer : x.buffer = s.streams[i].buffer := by rw [hx]
  have hstats : x.stats = n := by rw [hx]
  have hquota : quotaOf x.active = p.quota := by
    have hactive : x.active = some p := by rw [hx]; exact hl.1
    rw [hactive]
    rfl
  have hcounters : m.counters = k.counters := by rw [hm]
  have hwm : m.causes.writeFault = false := by rw [hm]; exact hw
  have ham : m.causes.aborted = false := by rw [hm]; exact ha
  have hmm : m.request.assembly = .merge := by rw [hm]; exact hmerge
  subst hq
  have hrepaired : repaired k idx.toNat (px.take p.lineLength) = y := hy.symm
  have hheld : h = heldLine i c k idx.toNat e y d := hh
  have hi : h.stream = i := by rw [hh]
  have hidx : h.index = idx.toNat := by rw [hh]
  have hctx : h.context = c := by rw [hh]
  rw [exec_line hl hf hacc hb hk]
  subst hctx
  refine ⟨?_, ?_⟩
  · rintro rfl
    rw [pixelPath_long hrepaired hu ⟨hlow, hhigh⟩ hmerge, ← hheld]
    refine ⟨fun w hmark hle => ?_, fun habove => ⟨fun hroom => ?_, fun old hfull hroom hold hoc hpending => ?_,
      fun old a z hfull hroom hold hoc hne hz hzm hzw hza => ?_, fun hfull hnoroom => ?_⟩⟩
    · rw [longLine_late hi hget hmark (hidx ▸ hle), hset, hstats, hcounters]
    · rw [longLine_held hi (hidx ▸ habove) (hquota ▸ hroom)]
    · have hflag : ∀ b, { m with watermark := some old.index, flushPending := m.flushPending && b }
          = { m with watermark := some old.index } := fun b => by
        have hpm : m.flushPending = false := by rw [hm]; exact hpending
        rw [hpm, Bool.false_and, ← hpm]
      have halone : old.alone m.request h.context = line (old.index - k.request.top) old.pixels old.short old.damaged true := by
        rw [hline, hm]
        rfl
      rw [longLine_full hi (hidx ▸ habove) (hquota ▸ hfull), evictFor_evicts hi hold hoc hget hmm hwm ham (hbuffer ▸ hroom), hflag, halone,
        hset, hbuffer, hstats]
    · have hother : x.contexts[a] = some z := by
        rw [hx]
        exact (get_set ..).trans ((if_neg hne).trans hz)
      rw [longLine_full hi (hidx ▸ habove) (hquota ▸ hfull), evictFor_evicts hi hold hoc hother hzm hzw hza (hbuffer ▸ hroom),
        hbuffer, hstats, hx]
    · rw [longLine_full hi (hidx ▸ habove) (hquota ▸ hfull), evictFor_lost hi hget (hbuffer ▸ hnoroom), hset, hstats, hcounters]
  · rintro rfl u o hu' ho
    rw [pixelPath_short hrepaired hu ⟨hlow, hhigh⟩ hmerge, ← hheld]
    have hdamaged : h.damaged = d := by rw [hh]
    obtain ⟨v, hv⟩ : ∃ v : StreamState, v = { x with contexts := s.streams[i].contexts.set h.context (some u) } := ⟨_, rfl⟩
    have hmarked : { x with contexts := x.contexts.set h.context (some { m with shortHigh := some h.index }) } = v := by
      rw [hv, hset, hu', hidx]
    have hvget : v.contexts[h.context] = some u := by
      rw [hv]
      exact Vector.getElem_set_self ..
    have hstored : s.streams[i].buffer.length < 8 → ∀ (t : State) (r : Row), (t.withStream i v).produceRow i h.context r
        = t.withStream i { v with buffer := s.streams[i].buffer ++ [r.finished k.request h.context] } := fun hroom t r => by
      rw [produceRow_stored hvget (by rw [hu']; exact hwm) (by rw [hu']; exact ham) (by rw [hv, hbuffer]; exact hroom),
        markExposure_merge (by rw [hu']; exact hmm), hu', hm, hv, hbuffer]
      dsimp only
      rw [Vector.set_set, hu', hm]
    have hlost : 8 ≤ s.streams[i].buffer.length → ∀ (t : State) (r : Row), (t.withStream i v).produceRow i h.context r
        = t.withStream i { x with
          contexts := s.streams[i].contexts.set h.context (some { u with
            counters := { k.counters with overrun := satInc k.counters.overrun } })
          stats := { n with linesOverrun := satInc n.linesOverrun } } := fun hfull t r => by
      rw [produceRow_lost hvget (by rw [hu']; exact hwm) (by rw [hu']; exact ham) (by rw [hv, hbuffer]; exact hfull), hv]
      dsimp only
      rw [Vector.set_set, hstats, hu', hm]
    have hpartner : ∀ l, o = some l → (s.withStream i x).shortLine k h
        = (({ s with pairing := s.pairing.erase l }).withStream i v).produceRow i h.context
          ⟨.one, idx.toNat - k.request.top, List.zipWith (mergePixel k.profile.knee k.profile.mergeRatio) l.pixels h.pixels,
            l.short || h.short, l.damaged || d, false⟩ := fun l hol => by
      rw [shortLine_merged hi hget (by rw [hidx, ← ho]; exact hol), hmarked, hidx, hdamaged]
    have hnothing : o = none → (∀ w, k.watermark = some w → w < idx.toNat) → (s.withStream i x).shortLine k h
        = (s.withStream i v).produceRow i h.context
          ⟨.one, idx.toNat - k.request.top, h.pixels.map (scalePixel · k.profile.mergeRatio), h.short, d, true⟩ := fun hnone hmark => by
      rw [shortLine_alone hi hget (by rw [hidx, ← ho]; exact hnone) (hidx ▸ hmark), hmarked, hidx, hdamaged]
    refine ⟨fun l hol hroom => ?_, fun z hz hfull => ⟨fun l hol => ?_, fun hnone hmark => ?_⟩, fun hnone hmark hroom => ?_,
      fun w hnone hmark hle => ?_⟩
    · rw [hpartner l hol, hstored hroom, hline, hv]
      rfl
    · rw [hpartner l hol, hlost hfull, hz]
      rfl
    · rw [hnothing hnone hmark, hlost hfull, hz]
    · rw [hnothing hnone hmark, hstored hroom, hline, hv]
      rfl
    · rw [shortLine_late hi hget (by rw [hidx, ← ho]; exact hnone) hmark (hidx ▸ hle), hset, hstats, hcounters, hidx, hu']

end Sys2Proof.Proofs
end

section
/-!
A prefetch list only shrinks while groups break and new heads are adopted (R15, R122): the list behind a head that
finishes bounds what the offer of a frame has still to judge (R36).
-/
namespace Sys2Proof.Proofs
open Sys2Proof.Machine

/-- No prefetch list of `t` is longer than it is in `s`. -/
def Shrinks (s t : State) : Prop := ∀ i : StreamId, t.streams[i].prefetch.length ≤ s.streams[i].prefetch.length

theorem Shrinks.refl (s : State) : Shrinks s s := fun _ => le_rfl

theorem Shrinks.trans {s t u : State} (h : Shrinks s t) (k : Shrinks t u) : Shrinks s u := fun i => (k i).trans (h i)

theorem Shrinks.foldl {α : Type} {f : State → α → State} (h : ∀ u a, Shrinks u (f u a)) (l : List α) (s : State) :
    Shrinks s (l.foldl f s) := by
  induction l generalizing s with
  | nil => exact .refl s
  | cons a l ih => exact (h s a).trans (ih _)

theorem shrinks_of_streams {s t : State} (h : t.streams = s.streams) : Shrinks s t := fun i => by rw [h]

section
variable (s : State)

theorem shrinks_onStream {i : StreamId} {f : StreamState → StreamState}
    (h : (f s.streams[i]).prefetch.length ≤ s.streams[i].prefetch.length) : Shrinks s (s.onStream i f) := fun k => by
  have hget : (s.onStream i f).streams[k] = if k = i then f s.streams[i] else s.streams[k] := get_set ..
  rw [hget]
  split
  · next hk => exact hk ▸ h
  · exact le_rfl

theorem shrinks_onGroup (g : GroupId) (f : Group → Group) : Shrinks s (s.onGroup g f) := shrinks_of_streams rfl

theorem shrinks_adoptHead (i : StreamId) (l : List Request) (h : l.length ≤ s.streams[i].prefetch.length) :
    Shrinks s (adoptHead i l s) := by
  induction l generalizing s with
  | nil => exact shrinks_onStream s h
  | cons q l ih =>
    have hl : l.length ≤ s.streams[i].prefetch.length := (Nat.le_succ _).trans h
    unfold adoptHead
    split
    · exact (shrinks_of_streams rfl).trans (ih _ hl)
    · have hst := streams_register s i q
      split
      · next t e =>
        rw [e] at hst
        exact (shrinks_of_streams hst).trans (shrinks_onStream t (by rw [show t.streams = s.streams from hst]; exact h))
      · next t e =>
        rw [e] at hst
        exact (shrinks_of_streams hst).trans (ih t (by rw [show t.streams = s.streams from hst]; exact hl))

theorem shrinks_newHead (i : StreamId) : Shrinks s (s.newHead i) := shrinks_adoptHead s i _ le_rfl

theorem shrinks_breakMember (g : GroupId) (i : StreamId) : Shrinks s (s.breakMember g i) := by
  unfold State.breakMember
  split
  · exact (shrinks_of_streams rfl).trans (shrinks_onStream _ (List.length_filter_le ..))
  · exact shrinks_of_streams rfl

theorem shrinks_resolveGroup (g : GroupId) : Shrinks s (s.resolveGroup g) := shrinks_of_streams (streams_resolveGroup s g)

theorem shrinks_breakGroup (g : GroupId) : Shrinks s (s.breakGroup g) := by
  unfold State.breakGroup
  dsimp only
  split
  · exact ((shrinks_onGroup s g _).trans (Shrinks.foldl (fun u => shrinks_breakMember u g) _ _)).trans
      ((shrinks_resolveGroup _ g).trans (Shrinks.foldl shrinks_newHead _ _))
  · exact .refl s

theorem shrinks_memberFinished (g : Option GroupId) (x : Status) : Shrinks s (s.memberFinished g x) := by
  unfold State.memberFinished
  split
  · exact .refl s
  · refine Shrinks.trans ?_ (shrinks_resolveGroup _ _)
    split
    · exact shrinks_onGroup s _ _
    · exact shrinks_breakGroup s _

/-- The list behind a head that finishes. -/
theorem finishHead_shorter {i : StreamId} {q : Request} {rest : List Request} (h : s.streams[i].prefetch = q :: rest) (x : Status) :
    (s.finishHead i x).streams[i].prefetch.length ≤ rest.length := by
  unfold State.finishHead
  rw [h]
  dsimp only
  refine (((shrinks_memberFinished _ _ _).trans (shrinks_newHead _ _)) i).trans (le_of_eq ?_)
  exact congrArg (fun y : StreamState => y.prefetch.length) (State.withStream_get _ i _)

end

end Sys2Proof.Proofs
end

section
/-! The offer of a frame (R34, R36) and FRAME_START (R30, R31, R48): O33. -/
namespace Sys2Proof.Proofs
open Sys2Proof.Machine

/-! ## New heads beside other changes of the stream -/

/-- A change of the stream that has nothing to do with its list and its deadline goes before a new head or after it. -/
theorem adoptHead_onStream {i : StreamId} {G : StreamState → StreamState}
    (hG : ∀ (x : StreamState) (l : List Request) (d : Option Word),
      G { x with prefetch := l, deadline := d } = { G x with prefetch := l, deadline := d })
    (l : List Request) (s : State) : adoptHead i l (s.onStream i G) = (adoptHead i l s).onStream i G := by
  have last : ∀ (u : State) (m : List Request) (f : Option Word),
      (u.onStream i G).onStream i (fun x => { x with prefetch := m, deadline := f })
        = (u.onStream i fun x => { x with prefetch := m, deadline := f }).onStream i G := by
    intro u m f
    rw [State.onStream_eq, State.onStream_eq, State.onStream_eq, State.onStream_eq, State.withStream_twice, State.withStream_twice,
      State.withStream_get, State.withStream_get, hG u.streams[i] m f]
  induction l generalizing s with
  | nil => exact last s [] none
  | cons q l ih =>
    cases hk : q.kind with
    | mark =>
      rw [adoptHead_mark hk, adoptHead_mark hk]
      exact ih (s.entryReady q.entry (q.unboundReport .ok) q.notify)
    | capture =>
      have hreg := register_withStream s i i q (G s.streams[i])
      have hsame := streams_register s i q
      cases h : s.register i q with
      | mk u stays =>
        rw [h] at hreg hsame
        dsimp only at hreg hsame
        have hreg' : (s.onStream i G).register i q = (u.onStream i G, stays) := by
          rw [State.onStream_eq, hreg, State.onStream_eq, hsame]
        cases stays with
        | true =>
          rw [adoptHead_waits hk hreg', adoptHead_waits hk h]
          exact last u (q :: l) _
        | false => rw [adoptHead_refused hk hreg', adoptHead_refused hk h, ih]

/-- A new head changes its own stream in the list and the deadline alone. -/
theorem adoptHead_own (i : StreamId) (l : List Request) (s : State) : ∃ m d, m.length ≤ l.length
    ∧ (adoptHead i l s).streams[i] = { s.streams[i] with prefetch := m, deadline := d } := by
  have set : ∀ (u : State) (m : List Request) (f : Option Word),
      (u.onStream i (fun x => { x with prefetch := m, deadline := f })).streams[i] = { u.streams[i] with prefetch := m, deadline := f } :=
    fun u m f => State.withStream_get u i _
  induction l generalizing s with
  | nil => exact ⟨[], none, le_rfl, set s [] none⟩
  | cons q l ih =>
    cases hk : q.kind with
    | mark =>
      rw [adoptHead_mark hk]
      obtain ⟨m, d, hm, h⟩ := ih (s.withReady q.entry (.unbound .ok q.tag 0) q.notify)
      exact ⟨m, d, hm.trans (Nat.le_succ _), h⟩
    | capture =>
      have hsame := streams_register s i q
      cases h : s.register i q with
      | mk u stays =>
        rw [h] at hsame
        dsimp only at hsame
        cases stays with
        | true =>
          rw [adoptHead_waits hk h, set, hsame]
          exact ⟨q :: l, _, le_rfl, rfl⟩
        | false =>
          rw [adoptHead_refused hk h]
          obtain ⟨m, d, hm, h⟩ := ih u
          rw [hsame] at h
          exact ⟨m, d, hm.trans (Nat.le_succ _), h⟩

theorem adoptHead_timeBase (i : StreamId) (l : List Request) (s : State) : (adoptHead i l s).timeBase = s.timeBase :=
  (congrArg State.timeBase (State.shell_quiet.adoptHead s i l) :)

/-! ## The offer -/

section
variable {s u : State} {i : StreamId} {q : Request} {rest : List Request} {f : Frame} {p : Profile}

/-- A claim does not touch a stream. -/
theorem streams_judgeHead (s : State) (i : StreamId) (q : Request) (f : Frame) (p : Profile) :
    (s.judgeHead i q f p).2.streams = s.streams := by
  have hclaim : ∀ g can, (s.claim g i q f.number can).2.streams = s.streams := fun g can => by
    unfold State.claim
    dsimp only
    repeat' split
    all_goals rfl
  unfold State.judgeHead
  dsimp only
  split
  · rfl
  · split
    · next g _ =>
      have h := hclaim g (q.canBind s.streams[i] f)
      split
      all_goals
        next heq =>
        rw [heq] at h
        exact h
    · repeat' split
      all_goals rfl

theorem offer_nil (h : s.streams[i].prefetch = []) (n : Nat) : offer i n s = (s, false) := by
  cases n with
  | zero => rfl
  | succ n =>
    unfold offer
    rw [h]

section
variable (hl : s.streams[i].prefetch = q :: rest) (hf : s.streams[i].frame = some f) (ha : s.streams[i].active = some p) (n : Nat)
include hl hf ha

theorem offer_binds (hj : s.judgeHead i q f p = (.binds, u)) : offer i (n + 1) s = ((u.bindHead i).newHead i, true) := by
  unfold offer
  rw [hl, hf, ha]
  dsimp only
  rw [hj]

theorem offer_waits (hj : s.judgeHead i q f p = (.waits, u)) : offer i (n + 1) s = (u, false) := by
  unfold offer
  rw [hl, hf, ha]
  dsimp only
  rw [hj]

theorem offer_finishes {x : Status} (hj : s.judgeHead i q f p = (.finishes x, u)) :
    offer i (n + 1) s = offer i n (u.finishHead i x) := by
  conv => lhs; unfold offer
  rw [hl, hf, ha]
  dsimp only
  rw [hj]

end

/-- As many heads as the list is long are all that an offer judges. -/
theorem offer_enough (i : StreamId) (n m : Nat) (s : State) (hn : s.streams[i].prefetch.length ≤ n) (hm : s.streams[i].prefetch.length ≤ m) :
    offer i n s = offer i m s := by
  induction n generalizing m s with
  | zero =>
    have hnil : s.streams[i].prefetch = [] := List.eq_nil_of_length_eq_zero (Nat.le_zero.mp hn)
    rw [offer_nil hnil, offer_nil hnil]
  | succ n ih =>
    cases hl : s.streams[i].prefetch with
    | nil => rw [offer_nil hl, offer_nil hl]
    | cons q rest =>
      rw [hl] at hn hm
      obtain ⟨m, rfl⟩ := Nat.exists_eq_add_of_le' (le_trans (Nat.succ_le_succ (Nat.zero_le _)) hm)
      rcases hf : s.streams[i].frame with _ | f
      · unfold offer
        rw [hl, hf]
      · rcases ha : s.streams[i].active with _ | p
        · unfold offer
          rw [hl, hf, ha]
        · have hsame := streams_judgeHead s i q f p
          cases hj : s.judgeHead i q f p with
          | mk j u =>
            rw [hj] at hsame
            cases j with
            | binds => rw [offer_binds hl hf ha n hj, offer_binds hl hf ha m hj]
            | waits => rw [offer_waits hl hf ha n hj, offer_waits hl hf ha m hj]
            | finishes x =>
              rw [offer_finishes hl hf ha n hj, offer_finishes hl hf ha m hj]
              have hshort := finishHead_shorter u (i := i) (q := q) (rest := rest) (by rw [hsame]; exact hl) x
              exact ih _ _ (hshort.trans (Nat.le_of_succ_le_succ hn)) (hshort.trans (Nat.le_of_succ_le_succ hm))

end

/-! ## Frames that begin -/

/-- The stream whose frame has begun, its profile as it stands: a staged defect table is active, the frame is marked by
the settle count and counted (R32, R34, R79). -/
def opened (x : StreamState) (number : Half) (now : Word) : StreamState :=
  { x with
    activeDefects := x.stagedDefects.getD x.activeDefects
    stagedDefects := none
    settle := x.settle - 1
    frame := some ⟨number, now, decide (0 < x.settle), none, none, none, none⟩
    gapTimer := some now
    stats := { x.stats with framesSeen := satInc x.stats.framesSeen } }

/-- The frame is counted as bound or as unclaimed after the offer (R34). -/
def counted (i : StreamId) (r : State × Bool) : State :=
  r.1.bump i fun n =>
    if r.2 then { n with framesBound := satInc n.framesBound } else { n with framesUnclaimed := satInc n.framesUnclaimed }

section
variable {x : StreamState} {id : BitVec 4}

theorem activate_same (h : ∀ q, x.staged = some q → q.id ≠ id) : x.activate id = x := by
  unfold StreamState.activate
  cases hs : x.staged with
  | none => rfl
  | some q => exact if_neg (h q hs)

theorem activate_staged {q : Profile} (h : x.staged = some q) (hid : q.id = id) :
    x.activate id = { x with active := some q, staged := none, settle := q.settleFrames } := by
  unfold StreamState.activate
  rw [h]
  exact if_pos hid

theorem activateDefects_eq (x : StreamState) :
    x.activateDefects = { x with activeDefects := x.stagedDefects.getD x.activeDefects, stagedDefects := none } := by
  unfold StreamState.activateDefects
  split
  · next t h =>
    rw [h]
    rfl
  · next h => rw [h, Option.getD_none, ← h]

end

section
variable {s t : State} {i : StreamId} {p : Profile} {number : Half} {id : BitVec 4}

theorem acceptFrame_eq (h : s.streams[i].frame = none) : s.acceptFrame i number id
    = counted i (offer i (s.streams[i].activate id).prefetch.length
      (s.withStream i (opened (s.streams[i].activate id) number s.timeBase))) := by
  have hopen : (s.onStream i fun x => ((x.activate id).activateDefects).beginFrame number s.timeBase).bump i
      (fun n => { n with framesSeen := satInc n.framesSeen })
      = s.withStream i (opened (s.streams[i].activate id) number s.timeBase) := by
    rw [State.bump, State.onStream_eq, State.onStream_eq, State.withStream_get, State.withStream_twice, activateDefects_eq]
    rfl
  unfold State.acceptFrame
  rw [State.closeFrame_none h]
  dsimp only
  rw [hopen, State.withStream_get]
  have hlist : (opened (s.streams[i].activate id) number s.timeBase).prefetch = (s.streams[i].activate id).prefetch := rfl
  rw [hlist]
  rcases offer i (s.streams[i].activate id).prefetch.length
    (s.withStream i (opened (s.streams[i].activate id) number s.timeBase)) with ⟨u, b⟩
  cases b <;> rfl

theorem exec_frameStart (h : s.linked i p) : exec (.frameStart i number id) s
    = .next (if s.streams[i].knows id then s.acceptFrame i number id else s.foreignFrame i).conclude := by
  refine (congrArg Host.Outcome.next (if_pos (delivers_of_linked h))).trans ?_
  unfold State.takeFrameStart
  rcases hf : s.streams[i].frame with _ | f
  · rw [status_betweenFrames h hf]
  · rw [status_inFrame h hf]

theorem knows_iff (x : StreamState) (id : BitVec 4) : x.knows id = true ↔ (∃ q, x.staged = some q ∧ q.id = id) ∨ ∃ q, x.active = some q ∧ q.id = id := by
  unfold StreamState.knows
  rw [Bool.or_eq_true, Option.any_eq_true, Option.any_eq_true]
  simp only [decide_eq_true_eq]

/-- A frame start with no frame in progress whose id the stream knows. -/
theorem exec_frameStart_known (h : s.linked i p) (hf : s.streams[i].frame = none) (hk : s.streams[i].knows id = true) :
    exec (.frameStart i number id) s = .next (counted i (offer i (s.streams[i].activate id).prefetch.length
      (s.withStream i (opened (s.streams[i].activate id) number s.timeBase)))).conclude := by
  rw [exec_frameStart h, if_pos hk, acceptFrame_eq hf]

theorem counted_unclaimed (s : State) (i : StreamId) (y : StreamState) : counted i (s.withStream i y, false)
    = s.withStream i { y with stats := { y.stats with framesUnclaimed := satInc y.stats.framesUnclaimed } } := by
  unfold counted
  rw [State.bump, State.onStream_eq, State.withStream_get, State.withStream_twice]
  rfl

/-- A frame in progress closes before anything else (R48). -/
theorem exec_frameStart_closes (h : s.linked i p) (ht : s.closeFrame i .truncated = t) (hf : t.streams[i].frame = none)
    (hl : t.linked i p) (hs : t.streams[i].staged = s.streams[i].staged) :
    exec (.frameStart i number id) s = exec (.frameStart i number id) t := by
  have hknows : t.streams[i].knows id = s.streams[i].knows id := by
    rw [Bool.eq_iff_iff, knows_iff, knows_iff, hs, h.1, hl.1]
  have hclose : s.closeFrame i .truncated = t.closeFrame i .truncated := ht.trans (State.closeFrame_none hf _).symm
  have haccept : s.acceptFrame i number id = t.acceptFrame i number id := by
    unfold State.acceptFrame
    rw [hclose]
  have hforeign : s.foreignFrame i = t.foreignFrame i := by
    unfold State.foreignFrame
    rw [hclose]
  rw [exec_frameStart h, exec_frameStart hl, hknows, haccept, hforeign]

end

/-- Settles O33: the ids a stream knows, the foreign ones, and the frame in progress. -/
theorem frameStartOpens : Obligations.FrameStartOpens := by
  unfold Obligations.FrameStartOpens
  refine ⟨?_, ?_, fun s i number id haway => ?_⟩
  · rintro s i p number id hl hf x n rfl rfl
    refine ⟨fun hnil hst hid => ?_, fun q hq hid => ⟨fun hnil => ?_, ?_⟩, fun hst hid => ?_⟩
    · rw [exec_frameStart_known hl hf ((knows_iff ..).mpr (.inr ⟨p, hl.1, hid⟩)), activate_same hst,
        offer_nil (by rw [State.withStream_get]; exact hnil), counted_unclaimed]
      rfl
    · rw [exec_frameStart_known hl hf ((knows_iff ..).mpr (.inl ⟨q, hq, hid⟩)), activate_staged hq hid,
        offer_nil (by rw [State.withStream_get]; exact hnil), counted_unclaimed]
      rfl
    · obtain ⟨t, ht⟩ : ∃ t, t = s.withStream i { s.streams[i] with active := some q, staged := none, settle := q.settleFrames } := ⟨_, rfl⟩
      have hget : t.streams[i] = { s.streams[i] with active := some q, staged := none, settle := q.settleFrames } := by
        rw [ht, State.withStream_get]
      have hlt : t.linked i q := by
        unfold State.linked
        rw [hget]
        exact ⟨rfl, hl.2⟩
      rw [exec_frameStart_known hl hf ((knows_iff ..).mpr (.inl ⟨q, hq, hid⟩)), activate_staged hq hid, ← ht,
        exec_frameStart_known hlt (by rw [hget]; exact hf) ((knows_iff ..).mpr (.inr ⟨q, by rw [hget], hid⟩)),
        activate_same (by rw [hget]; exact fun _ h => by cases h), hget, ht, State.withStream_twice]
      rfl
    · have hunknown : ¬s.streams[i].knows id = true := by
        rw [knows_iff]
        rintro (⟨q, hq, hid'⟩ | ⟨q, hq, hid'⟩)
        · exact hst q hq hid'
        · rw [hl.1] at hq
          exact hid (Option.some.inj hq ▸ hid')
      rw [exec_frameStart hl, if_neg hunknown]
      unfold State.foreignFrame
      rw [State.closeFrame_none hf]
      rfl
  · intro s i p number id f hl hf
    obtain ⟨ha, he, hr⟩ := hl
    have closed : ∀ (c : ContextId) (k : Capture) (causes : Causes) (m : List HeldLine) (fl : Bool) (kept : List HeldLine),
        s.closeFrame i .truncated = s.frameClosed i c k causes false m fl kept → exec (.frameStart i number id) s =
          exec (.frameStart i number id) (s.frameClosed i c k causes false m fl kept) := fun c k causes m fl kept ht => by
      refine exec_frameStart_closes ⟨ha, he, hr⟩ ht ?_ ?_ ?_
      · rw [State.frameClosed_get]
        rfl
      · unfold State.linked
        rw [State.frameClosed_get]
        exact ⟨ha, he, hr⟩
      · rw [State.frameClosed_get]
        rfl
    refine ⟨fun hb => ?_, fun c k hb hflush => ?_, fun c a k m hb hne hm hp => ?_⟩
    · refine exec_frameStart_closes ⟨ha, he, hr⟩ (State.closeFrame_unbound hf hb .truncated) ?_ ?_ ?_
      · rw [State.withStream_get]
        rfl
      · unfold State.linked
        rw [State.withStream_get]
        exact ⟨ha, he, hr⟩
      · rw [State.withStream_get]
        rfl
    · exact closed _ _ _ _ _ _ (State.closeFrame_flushed hb hflush false)
    · exact closed _ _ _ _ _ _ (State.closeFrame_waits hb .truncated (by decide) hne hm hp)
  · refine congrArg Host.Outcome.next (if_neg ?_)
    unfold State.delivers
    rcases status_away haway with h | h
    · rw [h]
      decide
    · rw [h]
      decide

end Sys2Proof.Proofs
end

section
/-! The offer of a frame to an ungrouped CAPTURE (R35 to R38, R13): O34. -/
namespace Sys2Proof.Proofs
open Sys2Proof.Machine

/-! ## Judging a head -/

theorem suits_iff (q : Request) (p : Profile) : q.suits p = true ↔
    (q.assembly = .plain ↔ p.layout = .single) ∧ q.left + q.cols ≤ p.lineLength ∧ q.top + q.rows ≤ p.frameHeight
    ∧ (q.subtract = true → p.referenceRows ≤ q.top) := by
  have hlayout : (match q.assembly with
      | .plain => decide (p.layout = .single)
      | .merge | .split => decide (p.layout = .paired)) = true ↔ (q.assembly = .plain ↔ p.layout = .single) := by
    cases q.assembly <;> cases p.layout <;> decide
  unfold Request.suits
  rw [Bool.and_eq_true, Bool.and_eq_true, Bool.and_eq_true, decide_eq_true_iff, decide_eq_true_iff, Bool.or_eq_true, Bool.not_eq_true',
    decide_eq_true_iff, and_assoc, and_assoc]
  refine and_congr ?_ (and_congr_right fun _ => and_congr_right fun _ => ?_)
  · exact hlayout
  · cases q.subtract <;> simp

theorem freeContext_eq_some {x : StreamState} {c : ContextId} (hc : x.contexts[c] = none) (hlow : ∀ d < c, x.contexts[d] ≠ none) :
    x.freeContext = some c := by
  unfold StreamState.freeContext
  rw [List.find?_eq_some_iff_append]
  obtain ⟨as, bs, h⟩ := List.append_of_mem (List.mem_finRange c)
  refine ⟨Option.isNone_iff_eq_none.mpr hc, as, bs, h, fun d hd => ?_⟩
  have hp := List.pairwise_lt_finRange 2
  rw [h, List.pairwise_append] at hp
  have hne := hlow d (hp.2.2 d hd c List.mem_cons_self)
  rw [Bool.not_eq_true', Option.isNone_eq_false_iff, Option.isSome_iff_ne_none]
  exact hne

/-- A head can bind unless both contexts are held or the frame is unsettled and it does not accept that (R35). -/
theorem canBind_iff (q : Request) (x : StreamState) (f : Frame) : q.canBind x f = true ↔
    ¬((∀ c : ContextId, x.contexts[c] ≠ none) ∨ (f.unsettled = true ∧ q.acceptUnsettled = false)) := by
  have hfree : x.freeContext.isSome = true ↔ ¬∀ c : ContextId, x.contexts[c] ≠ none := by
    unfold StreamState.freeContext
    rw [List.find?_isSome]
    simp only [List.mem_finRange, true_and, Option.isNone_iff_eq_none, ne_eq, not_forall, not_not]
  unfold Request.canBind
  rw [Bool.and_eq_true, hfree, not_or]
  refine and_congr_right fun _ => ?_
  cases f.unsettled <;> cases q.acceptUnsettled <;> decide

theorem frameOrder_equal {a b : Half} : frameOrder a b = .equal ↔ a = b := by
  unfold frameOrder
  split
  · next h => exact iff_of_true rfl (by bv_omega)
  · next h =>
    refine iff_of_false (by split <;> decide) fun he => h ?_
    rw [he]
    bv_omega

section
variable {s : State} {i : StreamId} {q : Request} {f : Frame} {p : Profile}

theorem judgeHead_unsuited (h : q.suits p = false) : s.judgeHead i q f p = (.finishes .invalid, s) := by
  unfold State.judgeHead
  dsimp only
  rw [if_pos (by rw [h]; rfl)]

section
variable (hs : q.suits p = true) (hg : q.group = none)
include hs hg

theorem judgeHead_next (hn : q.selector = .next) :
    s.judgeHead i q f p = (if q.canBind s.streams[i] f then .binds else .waits, s) := by
  unfold State.judgeHead
  dsimp only
  rw [if_neg (by rw [hs]; decide), hg]
  dsimp only
  rw [hn]
  dsimp only
  split <;> rfl

theorem judgeHead_numbered (hn : q.selector = .numbered) : s.judgeHead i q f p =
    (if f.number = q.number then if q.canBind s.streams[i] f then .binds else .finishes .missed
      else if frameOrder f.number q.number = .ahead then .finishes .missed else .waits, s) := by
  unfold State.judgeHead
  dsimp only
  rw [if_neg (by rw [hs]; decide), hg]
  dsimp only
  rw [hn]
  dsimp only
  cases ho : frameOrder f.number q.number with
  | equal =>
    rw [if_pos (frameOrder_equal.mp ho)]
    dsimp only
    split <;> rfl
  | ahead =>
    have hne : f.number ≠ q.number := fun h => by rw [frameOrder_equal.mpr h] at ho; cases ho
    rw [if_neg hne]
    rfl
  | behind =>
    have hne : f.number ≠ q.number := fun h => by rw [frameOrder_equal.mpr h] at ho; cases ho
    rw [if_neg hne]
    rfl

end
end

/-! ## The three ways an offer goes -/

section
variable {s u : State} {i : StreamId} {q : Request} {rest : List Request} {f : Frame} {p : Profile} {y : StreamState}

/-- The head binds the frame, in the lower free context (R17). -/
theorem bindHead_eq (hl : y.prefetch = q :: rest) (hf : y.frame = some f) (ha : y.active = some p) {c : ContextId}
    (hc : y.freeContext = some c) : (s.withStream i y).bindHead i = s.withStream i { y with
      prefetch := rest, deadline := none
      contexts := y.contexts.set c (some (q.bindTo f p y.activeDefects))
      frame := some { f with bound := some c } } := by
  unfold State.bindHead
  rw [State.withStream_get]
  dsimp only
  rw [hl, hf, ha, hc]
  dsimp only
  rw [State.onStream_eq, State.withStream_get, State.withStream_twice, ← ha]

/-- After a binding the offer has ended, and the requests behind the head become head (R15, R36). -/
theorem counted_bound (s : State) (i : StreamId) (y : StreamState) : counted i ((s.withStream i { y with
      prefetch := rest, deadline := none }).newHead i, true)
    = adoptHead i rest (s.withStream i { y with stats := { y.stats with framesBound := satInc y.stats.framesBound } }) := by
  have hhead : (s.withStream i { y with prefetch := rest, deadline := none }).newHead i
      = adoptHead i rest (s.withStream i { y with prefetch := rest, deadline := none }) := by
    unfold State.newHead
    rw [State.withStream_get]
  have hforget := adoptHead_forgets i rest rest none
    (s.withStream i { y with stats := { y.stats with framesBound := satInc y.stats.framesBound } })
  rw [State.withStream_get, State.withStream_twice] at hforget
  unfold counted
  dsimp only
  rw [hhead, State.bump, ← adoptHead_onStream (fun _ _ _ => rfl), State.onStream_eq, State.withStream_get, State.withStream_twice]
  exact hforget

/-- The head does not bind, and the offer has ended or goes on (R36, R37, R38). -/
theorem finishHead_open (hg : q.group = none) (y : StreamState) (hy : y.prefetch = q :: rest)
    (x : Status) : (s.withStream i y).finishHead i x = adoptHead i rest ((s.withReady q.entry (.unbound x q.tag 0) q.notify).withStream i y) := by
  rw [finishHead_ungrouped (by rw [State.withStream_get]; exact hy) hg]
  rfl

end

/-! ## The offer as it began, from a state in which the head has finished -/

section
variable {s : State} {i : StreamId} {rest : List Request} {p : Profile} {number : Half}

/-- The stream with its frame begun has its list, deadline and contexts as they were. -/
theorem opened_list (x : StreamState) (n : Half) (now : Word) (l : List Request) (d : Option Word) :
    opened { x with prefetch := l, deadline := d } n now = { opened x n now with prefetch := l, deadline := d } := rfl

/-- A frame start after the new head has been adopted is the offer that goes on behind it (R36). -/
theorem exec_frameStart_adopted (hl : s.linked i p) (hf : s.streams[i].frame = none) (hst : ∀ r, s.streams[i].staged = some r → r.id ≠ p.id) :
    exec (.frameStart i number p.id) (adoptHead i rest s)
      = .next (counted i (offer i rest.length (adoptHead i rest (s.withStream i (opened s.streams[i] number s.timeBase))))).conclude := by
  obtain ⟨m, d, hm, hown⟩ := adoptHead_own i rest s
  have hlinked : (adoptHead i rest s).linked i p := by
    unfold State.linked
    rw [hown]
    exact hl
  have hopen : (adoptHead i rest s).withStream i (opened (adoptHead i rest s).streams[i] number s.timeBase)
      = adoptHead i rest (s.withStream i (opened s.streams[i] number s.timeBase)) :=
    (adoptHead_onStream (G := fun x => opened x number s.timeBase) (fun x l d => opened_list x number s.timeBase l d) rest s).symm
  have hlist : (adoptHead i rest (s.withStream i (opened s.streams[i] number s.timeBase))).streams[i].prefetch
      = (adoptHead i rest s).streams[i].prefetch := by
    rw [← hopen, State.withStream_get]
    rfl
  have hshort : (adoptHead i rest s).streams[i].prefetch.length ≤ rest.length := by
    rw [hown]
    exact hm
  rw [exec_frameStart_known hlinked (by rw [hown]; exact hf) ((knows_iff ..).mpr (.inr ⟨p, hlinked.1, rfl⟩)),
    activate_same (by rw [hown]; exact hst), adoptHead_timeBase, hopen,
    offer_enough i _ rest.length _ (by rw [hlist]) (by rw [hlist]; exact hshort)]

end

/-- Settles O34: the judgement of the head, and what becomes of it and the heads behind it. -/
theorem frameStartOffers : Obligations.FrameStartOffers := by
  unfold Obligations.FrameStartOffers
  refine ⟨?_, suits_iff, fun q f p t => rfl⟩
  intro s i p number q rest hl hf hst hlist hg x f n cannot hx hff hn hcannot
  obtain ⟨y, hy⟩ : ∃ y, y = opened s.streams[i] number s.timeBase := ⟨_, rfl⟩
  have hxy : y = { x with stats := n } := by
    rw [hy, hx, hff, hn]
    rfl
  have hyl : y.prefetch = q :: rest := by rw [hy]; exact hlist
  have hyf : y.frame = some f := by rw [hy, hff]; rfl
  have hya : y.active = some p := by rw [hy]; exact hl.1
  have hyc : y.contexts = s.streams[i].contexts := by rw [hy]; rfl
  have hget : (s.withStream i y).streams[i] = y := State.withStream_get s i y
  have hexec : exec (.frameStart i number p.id) s = .next (counted i (offer i (rest.length + 1) (s.withStream i y))).conclude := by
    rw [exec_frameStart_known hl hf ((knows_iff ..).mpr (.inr ⟨p, hl.1, rfl⟩)), activate_same hst, ← hy, hlist]
    rfl
  have hcan : q.canBind y f = true ↔ ¬cannot := by
    rw [canBind_iff, hyc, hcannot, hff]
    simp only [decide_eq_true_eq]
  have hfn : f.number = number := by rw [hff]
  refine ⟨fun c hs hsel hc hlow hset => ?_, fun status hstatus => ?_, fun hs hwait => ?_⟩
  · have hbind : q.canBind y f = true := hcan.mpr fun h => by
      rcases hcannot.mp h with h | ⟨h, h'⟩
      · exact h c hc
      · rcases hset with hset | hset
        · omega
        · rw [h'] at hset
          cases hset
    have hj : (s.withStream i y).judgeHead i q f p = (.binds, s.withStream i y) := by
      cases hselector : q.selector with
      | next => rw [judgeHead_next hs hg hselector, hget, if_pos hbind]
      | numbered =>
        have hnumber : f.number = q.number := hfn.trans (hsel.resolve_left fun h => by rw [h] at hselector; cases hselector).symm
        rw [judgeHead_numbered hs hg hselector, hget, if_pos hnumber, if_pos hbind]
    have hfree : y.freeContext = some c := freeContext_eq_some (by rw [hyc]; exact hc) (by rw [hyc]; exact hlow)
    rw [hexec, offer_binds (by rw [hget]; exact hyl) (by rw [hget]; exact hyf) (by rw [hget]; exact hya) _ hj,
      bindHead_eq hyl hyf hya hfree, counted_bound s i { y with
        contexts := y.contexts.set c (some (q.bindTo f p y.activeDefects)), frame := some { f with bound := some c } }, hyc, hxy]
  · have hj : (s.withStream i y).judgeHead i q f p = (.finishes status, s.withStream i y) := by
      rcases hstatus with ⟨hs, rfl⟩ | ⟨hs, rfl, hselector, hmissed⟩
      · exact judgeHead_unsuited hs
      · rw [judgeHead_numbered hs hg hselector, hget, hfn]
        rcases hmissed with h | ⟨h, h'⟩
        · rw [if_neg (fun he => by rw [frameOrder_equal.mpr he] at h; cases h), if_pos h]
        · rw [if_pos h, if_neg (by rw [hcan, not_not]; exact h')]
    have hgo : exec (.frameStart i number p.id) s = .next (counted i (offer i rest.length
        (adoptHead i rest ((s.withReady q.entry (.unbound status q.tag 0) q.notify).withStream i y)))).conclude := by
      rw [hexec, offer_finishes (by rw [hget]; exact hyl) (by rw [hget]; exact hyf) (by rw [hget]; exact hya) _ hj,
        finishHead_open hg y hyl]
    refine ⟨?_, ?_⟩
    · rintro rfl
      have hadopt : ∀ u : State, adoptHead i [] (u.withStream i y) = u.withStream i { y with prefetch := [], deadline := none } :=
        fun u => by rw [adoptHead, State.onStream_eq, State.withStream_get, State.withStream_twice]
      rw [hgo, hadopt]
      refine congrArg (fun u : State => Host.Outcome.next u.conclude) ((counted_unclaimed _ i _).trans ?_)
      rw [hxy]
      rfl
    · rw [hgo, hy]
      exact (exec_frameStart_adopted (s := s.withReady q.entry (.unbound status q.tag 0) q.notify) hl hf hst).symm
  · have hj : (s.withStream i y).judgeHead i q f p = (.waits, s.withStream i y) := by
      rcases hwait with ⟨hselector, hbehind⟩ | ⟨hselector, h⟩
      · rw [judgeHead_numbered hs hg hselector, hfn, if_neg (fun he => by rw [frameOrder_equal.mpr he] at hbehind; cases hbehind),
          if_neg (by rw [hbehind]; decide)]
      · rw [judgeHead_next hs hg hselector, hget, if_neg (by rw [hcan, not_not]; exact h)]
    rw [hexec, offer_waits (by rw [hget]; exact hyl) (by rw [hget]; exact hyf) (by rw [hget]; exact hya) _ hj, counted_unclaimed, hxy]

end Sys2Proof.Proofs
end

section
/-! The offer of a frame to a group member (R39, R118, R120 to R122): O35. -/
namespace Sys2Proof.Proofs
open Sys2Proof.Machine

/-! ## What a group does beside another stream -/

section
variable {i k : StreamId} (h : k ≠ i) (z : StreamState)
include h

theorem onStream_withStream (s : State) (f : StreamState → StreamState) :
    (s.withStream i z).onStream k f = (s.onStream k f).withStream i z := by
  have hget : (s.withStream i z).streams[k] = s.streams[k] := (get_set ..).trans (if_neg h)
  have hne : i.val ≠ k.val := fun he => h (Fin.ext he.symm)
  rw [State.onStream_eq, State.onStream_eq, hget]
  exact congrArg (fun v => ({ s with streams := v } : State)) (Vector.set_comm _ _ hne)

theorem adoptHead_withStream (l : List Request) (s : State) :
    adoptHead k l (s.withStream i z) = (adoptHead k l s).withStream i z := by
  induction l generalizing s with
  | nil => exact onStream_withStream h z s _
  | cons q l ih =>
    cases hk : q.kind with
    | mark =>
      rw [adoptHead_mark hk, adoptHead_mark hk]
      exact ih (s.entryReady q.entry (q.unboundReport .ok) q.notify)
    | capture =>
      have hreg := register_withStream s k i q z
      cases hr : s.register k q with
      | mk u stays =>
        rw [hr] at hreg
        dsimp only at hreg
        cases stays with
        | true =>
          rw [adoptHead_waits hk hreg, adoptHead_waits hk hr]
          exact onStream_withStream h z u _
        | false => rw [adoptHead_refused hk hreg, adoptHead_refused hk hr, ih]

theorem newHead_withStream (s : State) : (s.withStream i z).newHead k = (s.newHead k).withStream i z := by
  have hget : (s.withStream i z).streams[k] = s.streams[k] := (get_set ..).trans (if_neg h)
  unfold State.newHead
  rw [hget, adoptHead_withStream h]

theorem breakMember_withStream (g : GroupId) (s : State) : (s.withStream i z).breakMember g k = (s.breakMember g k).withStream i z := by
  unfold State.breakMember
  have hg : (s.withStream i z).groups = s.groups := rfl
  rw [hg]
  split
  · next q _ => exact onStream_withStream h z ((s.entryParked q.entry (q.unboundReport .groupBroken)).onGroup g (·.setSlot k (.done q .groupBroken))) _
  · rfl

end

theorem foldl_withStream {i : StreamId} {z : StreamState} {F : State → StreamId → State} {l : List StreamId}
    (h : ∀ k ∈ l, ∀ u : State, F (u.withStream i z) k = (F u k).withStream i z) (s : State) :
    l.foldl F (s.withStream i z) = (l.foldl F s).withStream i z := by
  induction l generalizing s with
  | nil => rfl
  | cons k l ih =>
    rw [List.foldl_cons, List.foldl_cons, h k List.mem_cons_self, ih fun a ha => h a (List.mem_cons_of_mem k ha)]

theorem resolveGroup_withStream (i : StreamId) (z : StreamState) (g : GroupId) (s : State) :
    (s.withStream i z).resolveGroup g = (s.resolveGroup g).withStream i z := by
  cases hr : s.groups[g].resolves with
  | true =>
    rw [resolveGroup_eq rfl hr, resolveGroup_eq (s := s.withStream i z) (e := s.groups[g]) rfl hr]
    rfl
  | false =>
    have hsame : ∀ u : State, u.groups[g].resolves = false → u.resolveGroup g = u := fun u hu => if_neg (by rw [hu]; decide)
    rw [hsame s hr, hsame (s.withStream i z) hr]

/-- A break goes on beside a stream that has no registered member in the group. -/
theorem breakGroup_withStream {s : State} {g : GroupId} {i : StreamId} (h : s.groups[g].slots[i].progress ≠ .registered) (z : StreamState) :
    (s.withStream i z).breakGroup g = (s.breakGroup g).withStream i z := by
  have hne : ∀ k ∈ s.groups[g].waiting, k ≠ i := fun k hk e => h (mem_waiting.mp (e ▸ hk))
  have hg : (s.withStream i z).groups = s.groups := rfl
  unfold State.breakGroup
  dsimp only
  rw [hg]
  split
  · have hopen : (s.withStream i z).onGroup g (fun e => { e with state := .broken, timer := none })
        = (s.onGroup g fun e => { e with state := .broken, timer := none }).withStream i z := rfl
    rw [hopen, foldl_withStream (F := State.breakMember g) fun k hk u => breakMember_withStream (hne k hk) z g u, resolveGroup_withStream,
      foldl_withStream (F := State.newHead) fun k hk u => newHead_withStream (hne k hk) z u]
  · rfl

theorem breakGroup_timeBase (s : State) (g : GroupId) : (s.breakGroup g).timeBase = s.timeBase :=
  (congrArg State.timeBase (State.shell_quiet.breakGroup s g) :)

/-! ## Claims -/

/-- The group whose member of stream `i` has claimed a frame (R118). -/
def claimed (e : Group) (i : StreamId) (q : Request) (number : Half) : Group :=
  { e with state := .fixed, number := some number, slots := e.slots.set i ⟨.bound, some q, none⟩ }.timed

section
variable {s : State} {i : StreamId} {q : Request} {f : Frame} {p : Profile} {g : GroupId} {e : Group}
variable (hs : q.suits p = true) (hg : q.group = some g) (he : s.groups[g] = e)
include hs hg he

theorem judgeHead_open (hn : e.number = none) : s.judgeHead i q f p = if q.canBind s.streams[i] f
    then (.binds, { s with groups := s.groups.set g (claimed e i q f.number) }) else (.waits, s) := by
  subst he
  unfold State.judgeHead State.claim
  dsimp only
  rw [if_neg (by rw [hs]; decide), hg]
  dsimp only
  rw [hn]
  cases q.canBind s.streams[i] f <;> rfl

theorem judgeHead_fixed {G : Half} (hn : e.number = some G) : s.judgeHead i q f p =
    if f.number = G then
      if q.canBind s.streams[i] f then (.binds, { s with groups := s.groups.set g (claimed e i q f.number) })
      else (.finishes .missed, s)
    else if frameOrder f.number G = .ahead then (.finishes .missed, s) else (.waits, s) := by
  subst he
  unfold State.judgeHead State.claim
  dsimp only
  rw [if_neg (by rw [hs]; decide), hg]
  dsimp only
  rw [hn]
  cases ho : frameOrder f.number G with
  | equal =>
    rw [if_pos (frameOrder_equal.mp ho)]
    dsimp only
    rw [ho]
    cases q.canBind s.streams[i] f <;> rfl
  | ahead =>
    have hne : f.number ≠ G := fun h => by rw [frameOrder_equal.mpr h] at ho; cases ho
    rw [if_neg hne]
    dsimp only
    rw [ho]
    rfl
  | behind =>
    have hne : f.number ≠ G := fun h => by rw [frameOrder_equal.mpr h] at ho; cases ho
    rw [if_neg hne]
    dsimp only
    rw [ho]
    rfl

end

theorem timed_same {e : Group} (h : ∃ i : StreamId, e.mask[i] = true ∧ (e.slots[i].progress = .empty ∨ e.slots[i].progress = .registered)) :
    e.timed = e := by
  obtain ⟨i, hm, hp⟩ := h
  refine if_pos (List.any_eq_true.mpr ⟨i, List.mem_finRange i, ?_⟩)
  rw [hm, Bool.true_and, Bool.or_eq_true, decide_eq_true_iff, decide_eq_true_iff]
  exact hp

theorem timed_stops {e : Group} (h : ∀ i : StreamId, e.mask[i] = true → e.slots[i].progress = .bound ∨ e.slots[i].progress = .finished) :
    e.timed = { e with timer := none } := by
  refine if_neg ?_
  rw [List.any_eq_true]
  rintro ⟨i, -, hi⟩
  rw [Bool.and_eq_true, Bool.or_eq_true, decide_eq_true_iff, decide_eq_true_iff] at hi
  obtain ⟨hm, hp⟩ := hi
  rcases h i hm with hb | hb
  · rw [hb] at hp
    simp at hp
  · rw [hb] at hp
    simp at hp

/-- The state in which a member of stream `i` has finished without a frame, its group not yet told (R121, R125). -/
def memberParked (s : State) (g : GroupId) (i : StreamId) (q : Request) (x : Status) : State :=
  { s with
    groups := s.groups.set g { s.groups[g] with slots := s.groups[g].slots.set i ⟨.finished, some q, some x⟩ }
    holding := s.holding.set q.entry { s.holding[q.entry] with state := .parked, report := .unbound x q.tag 0 } }

section
variable {s : State} {g : GroupId} {i : StreamId} {q : Request} {x : Status}

theorem memberParked_get : (memberParked s g i q x).groups[g]
    = { s.groups[g] with slots := s.groups[g].slots.set i ⟨.finished, some q, some x⟩ } := Vector.getElem_set_self ..

theorem memberParked_slot : (memberParked s g i q x).groups[g].slots[i].progress ≠ .registered := by
  rw [memberParked_get]
  have hslot : (s.groups[g].slots.set i ⟨.finished, some q, some x⟩)[i] = (⟨.finished, some q, some x⟩ : MemberSlot) :=
    Vector.getElem_set_self ..
  dsimp only
  rw [hslot]
  exact nofun

/-- With no other member registered the break resolves the group if it can (R122, R127). -/
theorem memberParked_alone (hs : s.groups[g].state = .opened ∨ s.groups[g].state = .fixed)
    (hn : ∀ k : StreamId, k ≠ i → s.groups[g].slots[k].progress ≠ .registered) : (memberParked s g i q x).breakGroup g
      = ({ s with
        groups := s.groups.set g { s.groups[g] with
          state := .broken, timer := none, slots := s.groups[g].slots.set i ⟨.finished, some q, some x⟩ }
        holding := s.holding.set q.entry { s.holding[q.entry] with state := .parked, report := .unbound x q.tag 0 } } : State).resolveGroup g := by
  rw [breakGroup_unregistered memberParked_get hs]
  · unfold memberParked
    dsimp only
    rw [Vector.set_set]
  · intro k
    by_cases hk : k = i
    · subst hk
      have := memberParked_slot (s := s) (g := g) (i := k) (q := q) (x := x)
      rwa [memberParked_get] at this
    · dsimp only
      rw [get_set, if_neg hk]
      exact hn k hk

end

/-- Settles O35: the claim, and what a member that finishes leaves behind it. -/
theorem groupClaims : Obligations.GroupClaims := by
  unfold Obligations.GroupClaims
  refine ⟨?_, fun e => ⟨timed_same, timed_stops⟩⟩
  intro s i p number q rest g e hl hf hst hlist hg he hes hslot x f n hx hff hn
  obtain ⟨y, hy⟩ : ∃ y, y = opened s.streams[i] number s.timeBase := ⟨_, rfl⟩
  have hxy : y = { x with stats := n } := by
    rw [hy, hx, hff, hn]
    rfl
  have hyl : y.prefetch = q :: rest := by rw [hy]; exact hlist
  have hyf : y.frame = some f := by rw [hy, hff]; rfl
  have hya : y.active = some p := by rw [hy]; exact hl.1
  have hyc : y.contexts = s.streams[i].contexts := by rw [hy]; rfl
  have hget : (s.withStream i y).streams[i] = y := State.withStream_get s i y
  have hexec : exec (.frameStart i number p.id) s = .next (counted i (offer i (rest.length + 1) (s.withStream i y))).conclude := by
    rw [exec_frameStart_known hl hf ((knows_iff ..).mpr (.inr ⟨p, hl.1, rfl⟩)), activate_same hst, ← hy, hlist]
    rfl
  have hfn : f.number = number := by rw [hff]
  have hge : (s.withStream i y).groups[g] = e := he
  have hcanbind : ∀ cannot : Prop, (cannot ↔ (∀ c : ContextId, s.streams[i].contexts[c] ≠ none)
      ∨ (0 < s.streams[i].settle ∧ q.acceptUnsettled = false)) → (q.canBind y f = true ↔ ¬cannot) := fun cannot hcannot => by
    rw [canBind_iff, hyc, hcannot, hff]
    simp only [decide_eq_true_eq]
  refine ⟨fun c hs hnumber hc hlow hset => ?_, fun cannot hcannot => ⟨fun hs hwait => ?_, fun status hstatus => ?_⟩⟩
  · have hbind : q.canBind y f = true := (hcanbind _ Iff.rfl).mpr fun h => by
      rcases h with h | ⟨h, h'⟩
      · exact h c hc
      · rcases hset with hset | hset
        · omega
        · rw [h'] at hset
          cases hset
    have hj : (s.withStream i y).judgeHead i q f p
        = (.binds, ({ s with groups := s.groups.set g (claimed e i q number) } : State).withStream i y) := by
      rcases hnumber with hnone | hsome
      · rw [judgeHead_open hs hg hge hnone, hget, if_pos hbind, hfn]
        rfl
      · rw [judgeHead_fixed hs hg hge hsome, hget, if_pos hfn, if_pos hbind, hfn]
        rfl
    have hfree : y.freeContext = some c := freeContext_eq_some (by rw [hyc]; exact hc) (by rw [hyc]; exact hlow)
    rw [hexec, offer_binds (by rw [hget]; exact hyl) (by rw [hget]; exact hyf) (by rw [hget]; exact hya) _ hj,
      bindHead_eq hyl hyf hya hfree, counted_bound _ i { y with
        contexts := y.contexts.set c (some (q.bindTo f p y.activeDefects)), frame := some { f with bound := some c } }, hyc, hxy]
    rfl
  · have hcan := hcanbind cannot hcannot
    have hj : (s.withStream i y).judgeHead i q f p = (.waits, s.withStream i y) := by
      rcases hwait with ⟨hnone, h⟩ | ⟨G, hsome, hbehind⟩
      · rw [judgeHead_open hs hg hge hnone, hget, if_neg (by rw [hcan, not_not]; exact h)]
      · rw [judgeHead_fixed hs hg hge hsome, hfn, if_neg (fun h => by rw [frameOrder_equal.mpr h] at hbehind; cases hbehind),
          if_neg (by rw [hbehind]; decide)]
    rw [hexec, offer_waits (by rw [hget]; exact hyl) (by rw [hget]; exact hyf) (by rw [hget]; exact hya) _ hj, counted_unclaimed, hxy]
  · have hcan := hcanbind cannot hcannot
    have hbreaks : status.keepsGroup = false := by
      rcases hstatus with ⟨-, rfl⟩ | ⟨-, rfl, -⟩
      · rfl
      · rfl
    have hj : (s.withStream i y).judgeHead i q f p = (.finishes status, s.withStream i y) := by
      rcases hstatus with ⟨hs, rfl⟩ | ⟨hs, rfl, G, hsome, hmissed⟩
      · exact judgeHead_unsuited hs
      · rw [judgeHead_fixed hs hg hge hsome, hget, hfn]
        rcases hmissed with h | ⟨h, h'⟩
        · rw [if_neg (fun he => by rw [frameOrder_equal.mpr he] at h; cases h), if_pos h]
        · rw [if_pos h, if_neg (by rw [hcan, not_not]; exact h')]
    have hfinish : (s.withStream i y).finishHead i status
        = adoptHead i rest (((memberParked s g i q status).breakGroup g).withStream i { y with prefetch := rest, deadline := none }) := by
      rw [finishHead_member (by rw [hget]; exact hyl) hg hge hslot hes hbreaks, hget, ← breakGroup_withStream memberParked_slot]
      subst he
      unfold memberParked
      rw [State.withStream_twice]
      rfl
    have hgo : exec (.frameStart i number p.id) s = .next (counted i (offer i rest.length (adoptHead i rest
        (((memberParked s g i q status).breakGroup g).withStream i { y with prefetch := rest, deadline := none })))).conclude := by
      rw [hexec, offer_finishes (by rw [hget]; exact hyl) (by rw [hget]; exact hyf) (by rw [hget]; exact hya) _ hj, hfinish]
    refine ⟨?_, ?_⟩
    · rintro rfl halone
      have hadopt : ∀ u : State, adoptHead i [] (u.withStream i { y with prefetch := [], deadline := none })
          = u.withStream i { y with prefetch := [], deadline := none } :=
        fun u => by rw [adoptHead, State.onStream_eq, State.withStream_get, State.withStream_twice]
      rw [hgo, hadopt, memberParked_alone (he ▸ hes) (he ▸ halone)]
      refine congrArg (fun u : State => Host.Outcome.next u.conclude) ((counted_unclaimed _ i _).trans ?_)
      rw [hxy, ← resolveGroup_withStream]
      subst he
      rfl
    · have hparked : ({ s.withStream i { s.streams[i] with prefetch := rest, deadline := none } with
          groups := s.groups.set g { e with slots := e.slots.set i ⟨.finished, some q, some status⟩ }
          holding := s.holding.set q.entry { s.holding[q.entry] with
            state := .parked, report := .unbound status q.tag 0 } } : State)
          = (memberParked s g i q status).withStream i { s.streams[i] with prefetch := rest, deadline := none } := by
        subst he
        rfl
      rw [hparked, breakGroup_withStream memberParked_slot, hgo]
      have hown : (((memberParked s g i q status).breakGroup g).withStream i { s.streams[i] with prefetch := rest, deadline := none }).streams[i]
          = { s.streams[i] with prefetch := rest, deadline := none } := State.withStream_get ..
      have htime : (((memberParked s g i q status).breakGroup g).withStream i { s.streams[i] with prefetch := rest, deadline := none }).timeBase
          = s.timeBase := breakGroup_timeBase (memberParked s g i q status) g
      rw [exec_frameStart_adopted (p := p) (by unfold State.linked; rw [hown]; exact hl) (by rw [hown]; exact hf) (by rw [hown]; exact hst),
        hown, htime, opened_list, ← hy, State.withStream_twice]

end Sys2Proof.Proofs
end

section
/-!
The bound of the prefetch lists (O60) rests on a ring's being in flight while it has a slot read ISSUED. No premise of the
statement says that a write belongs to no holding entry's slot read, and a response timeout of such a write takes the
ring out of flight (R142, R187) while its slot read goes on.
-/
namespace Sys2Proof.Proofs
open Sys2Proof.Machine

/-- RUNNING, with the slot read of entry 2 ISSUED and its ring 1 in flight; a write ISSUED for the same slot, whose timer
has run out, and its response timeout at the front of the queue. -/
def misowned : State :=
  { State.reset with
    device := .running
    rings := State.reset.rings.set 1 ⟨.active, 0, 4, 1, 1, true⟩
    holding := State.reset.holding.set 2 { HoldingEntry.free with state := .reserved }
    reads := State.reset.reads.set 0 (.issued ⟨.slotFetch, some (.slot 2), 0, 64, 0, 1, []⟩)
    writes := State.reset.writes.set 0 (.issued ⟨.dataBurst, some (.slot 2), 0, 0, 0, 0, []⟩)
    pending := [.responseTimeout .write 0] }

/-! ## The premises hold -/

theorem misowned_read (j : Fin Config.readEntries) : misowned.reads[j]
    = if j = 0 then .issued ⟨.slotFetch, some (.slot 2), 0, 64, 0, 1, []⟩ else .free :=
  (get_set State.reset.reads 0 j _).trans (by rw [reset_allFree.1 j])

theorem misowned_write (j : Fin Config.writeEntries) : misowned.writes[j]
    = if j = 0 then .issued ⟨.dataBurst, some (.slot 2), 0, 0, 0, 0, []⟩ else .free :=
  (get_set State.reset.writes 0 j _).trans (by rw [reset_allFree.2 j])

theorem misowned_ring (r : RingId) : misowned.rings[r] = if r = 1 then ⟨.active, 0, 4, 1, 1, true⟩ else .absent :=
  (get_set State.reset.rings 1 r _).trans (by rw [show State.reset.rings[r] = .absent from Vector.getElem_replicate r.isLt])

/-- The one slot read ISSUED is that of entry 2. -/
theorem misowned_slot {j : Fin Config.readEntries} {e : EntryId} (h : (misowned.reads[j]).isFor (.slot e) = true) : j = 0 ∧ e = 2 := by
  rw [misowned_read] at h
  split at h
  · next hj => exact ⟨hj, (Owner.slot.inj (Option.some.inj (of_decide_eq_true h))).symm⟩
  · cases h

theorem misowned_startFits : misowned.startFits where
  off h := by cases h
  writes h := by cases h
  reads h := by cases h
  one h := by cases h
  later _ _ j t ht := by
    rw [misowned_read] at ht
    split at ht
    · cases ht
      nofun
    · cases ht

theorem misowned_entriesHeld : misowned.entriesHeld where
  slots j e h := by
    obtain ⟨-, rfl⟩ := misowned_slot h
    rfl
  records j e h := by
    rw [misowned_write] at h
    split at h
    · have howner : (some (.slot 2) : Option Owner) = some (.completion e) := of_decide_eq_true h
      cases howner
    · cases h

theorem misowned_listsFit : misowned.listsFit where
  one j k e f hj hk _ := (misowned_slot hj).1.trans (misowned_slot hk).1.symm
  flight j e h := by
    obtain ⟨-, rfl⟩ := misowned_slot h
    rfl
  absent r h := by
    rw [misowned_ring] at h ⊢
    split at h
    · cases h
    · next hr =>
      rw [if_neg hr]
      rfl
  lists i := by
    have hempty : misowned.streams[i].prefetch = [] :=
      congrArg StreamState.prefetch (Vector.getElem_replicate (a := StreamState.reset) i.isLt)
    rw [hempty]
    split <;> decide

/-! ## The step breaks the bound -/

/-- The response timeout fails the slot of entry 2: its ring is no longer in flight, and its slot read is ISSUED still. -/
theorem misowned_step : ∃ t, step misowned = .next t ∧ (t.reads[(0 : Fin Config.readEntries)]).isFor (.slot 2) = true
    ∧ t.rings[ringOfEntry 2].inFlight = false := by
  refine ⟨_, rfl, ?_, ?_⟩
  · decide +kernel
  · decide +kernel

/-- The rest of what O60 says of rings, quarantine and owners does hold: the bounds of the rings, the quarantine count and
the owners of ISSUED entries are kept by every step (R135, R148, R187, R188, R191). -/
theorem step_keeps_rings_quarantine_owners {s t : State} (h : step s = .next t) : (s.ringsBounded → t.ringsBounded)
    ∧ (s.quarantineCounts → t.quarantineCounts) ∧ (s.ownersFit → t.ownersFit) :=
  ⟨fun hs => ringsBounded_kept.step hs h, fun hs => quarantineCounts_kept.kept.step hs h, fun hs => ownersFit_kept.kept.step hs h⟩

/-- Refutes O60: a write that is owned by a slot read, which neither `startFits` nor `entriesHeld` excludes, times out. -/
theorem not_stepKeepsCounts : ¬ Obligations.StepKeepsCounts := by
  unfold Obligations.StepKeepsCounts
  intro h
  obtain ⟨t, hstep, hread, hring⟩ := misowned_step
  obtain ⟨-, -, -, -, hkeeps, -, -⟩ := h misowned t hstep
  have hflight := (hkeeps misowned_startFits misowned_entriesHeld misowned_listsFit).flight 0 2 hread
  rw [hring] at hflight
  cases hflight

end Sys2Proof.Proofs
end
